-- ==== Sys2Proof/Word.lean ====
section
/-! DEFINITION. The two widths every value of the datapath has (spec 00_scope.md R4: `WORD_W`, `BYTE_W`), and fixed-size
register files written entry by entry. -/

namespace Sys2Proof

/-- A word: 32 bits, unsigned (00_scope.md R4, R7). -/
abbrev Word := BitVec 32

/-- A byte: 8 bits (00_scope.md R4, R7). -/
abbrev Byte := BitVec 8

/-- A register file of `n` entries with entry `i` equal to `f i`: the spec's `for i in 0..n-1: X[i] <- f i`, which is "a
replication of hardware, not a sequence in time" (00_scope.md R7). -/
def tabulate {α : Type} (n : Nat) (f : Nat → α) : Vector α n :=
  ⟨((List.range n).map f).toArray, by simp⟩

end Sys2Proof
end

