-- ==== Sys2Proof/Config.lean ====
section
/-! DEFINITION. The values the spec leaves open. Every one is a constant WITHOUT A BODY, so nothing can be proved of its
value and a statement about it holds whatever it is. The first argument of all but the padder's three is the draw
index, the model's own step counter (notes/assumptions/4.md): the values of two steps are unrelated. What RESET leaves is also a function of what
all the registers held before it, because an implementation "may clear them, leave them as they were, or leave them in their
power-up state" (10_state.md R28): nothing can be proved to be erased by RESET, and nothing to survive it.

Nothing else of the hardware is configurable: "Every size in the machine is fixed; the model takes none of these as a free
argument" (00_scope.md R4). The open parameters `CYCLES_PER_STEP` and `MSG_RD_LATENCY` are parameters "no rule depends on"
(notes/assumptions/14.md). -/

namespace Sys2Proof.Config

/-- What RESET leaves in `N`: unspecified (10_state.md R28; 93_implementation_defined.md U1; notes/assumptions/3.md): draw
index, then the register contents before. -/
opaque resetN : Nat → List Nat → BitVec 56

/-- What RESET leaves in `J` (10_state.md R28; U1). -/
opaque resetJ : Nat → List Nat → BitVec 6

/-- What RESET leaves in `VARIANT`, as its bit (10_state.md R28; U1). -/
opaque resetVariant : Nat → List Nat → BitVec 1

/-- What RESET leaves in `LEN` (10_state.md R28; U1). -/
opaque resetLEN : Nat → List Nat → BitVec 61

/-- What RESET leaves in `H[i]` (10_state.md R28; U1): draw index, contents before, then `i`. -/
opaque resetH : Nat → List Nat → Nat → Word

/-- What RESET leaves in the working register `WK[i]` (10_state.md R12, R28; U1): draw index, contents before, then `i`. -/
opaque resetWK : Nat → List Nat → Nat → Word

/-- What RESET leaves in `W[t]` (10_state.md R28; U1): draw index, contents before, then `t`. -/
opaque resetW : Nat → List Nat → Nat → Word

/-- What RESET leaves in `BLK[i]` (10_state.md R28; U1): draw index, contents before, then `i`. -/
opaque resetBLK : Nat → List Nat → Nat → Byte

/-- What RESET leaves in `DIGEST_HEX[i]` (10_state.md R28; U1): draw index, contents before, then `i`. -/
opaque resetDIGEST_HEX : Nat → List Nat → Nat → Byte

/-- What `msg_rdata` carries when the core reads an offset below `LEN` that the host's memory does not supply
(93_implementation_defined.md U3; notes/assumptions/5.md): draw index, then offset. -/
opaque unsuppliedByte : Nat → Nat → Byte

/-- What `msg_rdata` carries for an offset the core does not request, an input of `sha256_padder` that is "meaningful only
where 64·N + i < `len`" (10_state.md R34; notes/assumptions/16.md): draw index, then offset. -/
opaque idleRdata : Nat → Nat → Byte

/-- What `sha256_padder` puts on `blk[i]` for an offset at or beyond `PLEN(len)`, where "its outputs are not specified"
(41_padder.md R106; 93_implementation_defined.md U7; notes/assumptions/6.md): the length, the offset, then the input `m[i]`. -/
opaque padByteBeyond : Nat → Nat → Byte → Byte

/-- What `sha256_padder` puts on `rd[i]` for `blk_idx` at or beyond `NBLK(len)`, not specified (41_padder.md R106; U7;
notes/assumptions/6.md): the length, the block index, the inputs `m`, then `i`. -/
opaque padRdBeyond : Nat → Nat → List Byte → Nat → Bool

/-- What `sha256_padder` puts on `last` for `blk_idx` at or beyond `NBLK(len)`, not specified (41_padder.md R106; U7;
notes/assumptions/6.md): the length, the block index, then the inputs `m`. -/
opaque padLastBeyond : Nat → Nat → List Byte → Bool

end Sys2Proof.Config
end

