-- ==== Sys2Proof/Syntax.lean ====
section
/-! DEFINITION. The names the spec gives: the two operation formats, the eight phases, the two variants, and the twelve
operations of spec/opcode_table.json. -/

namespace Sys2Proof

/-- The two operation formats (30_encoding.md R60), told apart by their SELECTOR and not by any bit: `H` is the host command
word on the port `hin[2:0]`, `S` is the sequencer selector in the register `PHASE[2:0]`. -/
inductive Format where
  | H
  | S
  deriving DecidableEq, Repr

/-- The eight values of `PHASE`; "There is no reserved value" (10_state.md R16). -/
inductive Phase where
  | idle
  | pad
  | sched
  | winit
  | round
  | fold
  | format
  | done
  deriving DecidableEq, Repr

/-- The variant tag: "In a model the tag is a two-constructor inductive type" (30_encoding.md R66). -/
inductive Variant where
  | sha256
  | sha224
  deriving DecidableEq, Repr

/-- The operations, one constructor per row of spec/opcode_table.json (30_encoding.md R60, section 7). The arguments are the
bits of the word that the operation ignores (30_encoding.md R67), so that decoding drops no bit. The operands the operations
use are not in the word: `msg_len` is a port (R63), `N`, `J`, `LEN`, `VARIANT` are registers (R64). -/
inductive Instr where
  /-- RESET, format H `1--`; `ignored` is `hin[1:0]`. -/
  | reset (ignored : BitVec 2)
  /-- NOP, format H `00-`; `ignored` is `hin[0]`. -/
  | nop (ignored : BitVec 1)
  /-- START_SHA256, format H `010`. -/
  | startSha256
  /-- START_SHA224, format H `011`. -/
  | startSha224
  /-- IDLE, format S `000`. -/
  | idle
  /-- PAD, format S `001`. -/
  | pad
  /-- SCHED, format S `010`. -/
  | sched
  /-- WINIT, format S `011`. -/
  | winit
  /-- ROUND, format S `100`. -/
  | round
  /-- FOLD, format S `101`. -/
  | fold
  /-- FORMAT, format S `110`. -/
  | format
  /-- HOLD, format S `111`. -/
  | hold
  deriving DecidableEq, Repr

/-- An operation word as it reaches the decoder: the selector it stands on and its value. The value is a plain number here;
`OpWord.wellFormed` asks that it fits the three bits of its selector. -/
structure OpWord where
  format : Format
  value : Nat
  deriving DecidableEq, Repr

end Sys2Proof
end

