-- ==== Sys2Proof/WellFormed.lean ====
section
/-! DEFINITION. Well-formedness. An operation word has one check, its width. An operation has none beyond its type: "All
eight values of `hin` decode … and all eight values of `PHASE` decode … No encoding traps, none is reserved" (30_encoding.md
R67), and the ignored bits may take every value. -/

namespace Sys2Proof

/-- "both of fixed length 3 bits" (30_encoding.md R60). -/
def OpWord.wellFormed (o : OpWord) : Bool := decide (o.value < 8)

/-- No operation has an illegal operand (30_encoding.md R67): the widths of the ignored bits are their types. -/
def Instr.wellFormed : Instr → Bool
  | .reset _ => true
  | .nop _ => true
  | .startSha256 => true
  | .startSha224 => true
  | .idle => true
  | .pad => true
  | .sched => true
  | .winit => true
  | .round => true
  | .fold => true
  | .format => true
  | .hold => true

end Sys2Proof
end

