-- ==== Sys2Proof/Decode.lean ====
section
/-! DEFINITION. Decoding and encoding of the two formats (30_encoding.md R60 to R67), the dispatch of a step (R65), and the
encodings of `PHASE` and of the variant tag. -/

namespace Sys2Proof

/-! ### The encodings of the named values -/

/-- `PHASE[2:0]` of a phase (10_state.md R16). -/
def Phase.bits : Phase → BitVec 3
  | .idle => 0b000#3
  | .pad => 0b001#3
  | .sched => 0b010#3
  | .winit => 0b011#3
  | .round => 0b100#3
  | .fold => 0b101#3
  | .format => 0b110#3
  | .done => 0b111#3

/-- The phase that three bits name: all eight values are used (10_state.md R16). -/
def Phase.ofBits (w : BitVec 3) : Phase :=
  match w.toNat with
  | 0 => .idle
  | 1 => .pad
  | 2 => .sched
  | 3 => .winit
  | 4 => .round
  | 5 => .fold
  | 6 => .format
  | _ => .done

/-- The variant tag's bit: "0 = SHA-256, 1 = SHA-224" (10_state.md R19; 30_encoding.md R66). -/
def Variant.bit : Variant → BitVec 1
  | .sha256 => 0b0#1
  | .sha224 => 0b1#1

/-- The variant a tag bit selects (30_encoding.md R66). -/
def Variant.ofBit (b : BitVec 1) : Variant := if b = 0b1#1 then .sha224 else .sha256

/-! ### The command word's fields (30_encoding.md R61) -/

/-- `hin[2]`, the port `rst`. -/
def rstBit (hin : BitVec 3) : Bool := hin.getLsbD 2

/-- `hin[1]`, the port `start`. -/
def startBit (hin : BitVec 3) : Bool := hin.getLsbD 1

/-- `hin[0]`, the port `variant`. -/
def variantBit (hin : BitVec 3) : Bool := hin.getLsbD 0

/-! ### Decoding -/

/-- Format H (30_encoding.md R62): `1--` RESET, `00-` NOP, `010` START_SHA256, `011` START_SHA224. -/
def decodeH (hin : BitVec 3) : Instr :=
  if rstBit hin then .reset (hin.extractLsb' 0 2)
  else if startBit hin then
    if variantBit hin then .startSha224 else .startSha256
  else .nop (hin.extractLsb' 0 1)

/-- Format S (30_encoding.md R64): the operation that the phase selects. -/
def decodeS (phase : BitVec 3) : Instr :=
  match Phase.ofBits phase with
  | .idle => .idle
  | .pad => .pad
  | .sched => .sched
  | .winit => .winit
  | .round => .round
  | .fold => .fold
  | .format => .format
  | .done => .hold

/-- Why a word is not an operation. -/
inductive DecodeError where
  /-- The value does not fit in the three bits of its selector (30_encoding.md R60). -/
  | widerThanThreeBits
  deriving DecidableEq, Repr

/-- Decoding, total: every three-bit value of either format is an operation (30_encoding.md R67), and a value that is wider
is rejected by name. -/
def decode (o : OpWord) : Except DecodeError Instr :=
  if o.value < 8 then
    match o.format with
    | .H => .ok (decodeH (BitVec.ofNat 3 o.value))
    | .S => .ok (decodeS (BitVec.ofNat 3 o.value))
  else .error .widerThanThreeBits

/-! ### Encoding -/

/-- The word of an operation, from the table of 30_encoding.md section 7; the ignored bits stand where the operation carries
them. -/
def encode : Instr → OpWord
  | .reset ignored => ⟨.H, (0b1#1 ++ ignored).toNat⟩
  | .nop ignored => ⟨.H, (0b00#2 ++ ignored).toNat⟩
  | .startSha256 => ⟨.H, 0b010⟩
  | .startSha224 => ⟨.H, 0b011⟩
  | .idle => ⟨.S, 0b000⟩
  | .pad => ⟨.S, 0b001⟩
  | .sched => ⟨.S, 0b010⟩
  | .winit => ⟨.S, 0b011⟩
  | .round => ⟨.S, 0b100⟩
  | .fold => ⟨.S, 0b101⟩
  | .format => ⟨.S, 0b110⟩
  | .hold => ⟨.S, 0b111⟩

/-- One row of spec/opcode_table.json in match and mask form (30_encoding.md R62). -/
structure OpcodeRow where
  format : Format
  matchBits : BitVec 3
  maskBits : BitVec 3
  deriving DecidableEq, Repr

/-- The row an operation stands in (spec/opcode_table.json, `match` and `mask`). -/
def opcodeRow : Instr → OpcodeRow
  | .reset _ => ⟨.H, 0x4#3, 0x4#3⟩
  | .nop _ => ⟨.H, 0x0#3, 0x6#3⟩
  | .startSha256 => ⟨.H, 0x2#3, 0x7#3⟩
  | .startSha224 => ⟨.H, 0x3#3, 0x7#3⟩
  | .idle => ⟨.S, 0x0#3, 0x7#3⟩
  | .pad => ⟨.S, 0x1#3, 0x7#3⟩
  | .sched => ⟨.S, 0x2#3, 0x7#3⟩
  | .winit => ⟨.S, 0x3#3, 0x7#3⟩
  | .round => ⟨.S, 0x4#3, 0x7#3⟩
  | .fold => ⟨.S, 0x5#3, 0x7#3⟩
  | .format => ⟨.S, 0x6#3, 0x7#3⟩
  | .hold => ⟨.S, 0x7#3, 0x7#3⟩

/-- A word of a format lies in a row when its bits under the row's mask are the row's match. -/
def OpcodeRow.covers (r : OpcodeRow) (f : Format) (w : BitVec 3) : Bool :=
  decide (r.format = f) && decide (w &&& r.maskBits = r.matchBits)

/-! ### Dispatch -/

/-- The operation a step performs (30_encoding.md R65), from the command word and `PHASE[2:0]` at the start of the step:
RESET if `rst`; in IDLE and DONE an accepted START if one is presented; otherwise the sequencer operation of the phase. -/
def dispatch (hin phase : BitVec 3) : Instr :=
  if rstBit hin then decodeH hin
  else if phase = 0b000#3 ∨ phase = 0b111#3 then
    if startBit hin then decodeH hin else decodeS phase
  else decodeS phase

/-! ### The host's reading of the opcode table -/

/-- The operation read from a word of the opcode table. Rows of format H and rows of format S use the same eight words (the
format is told by the selector, which the word does not carry), so one function of the word can read only one format: this
one reads format S, the format that has a row for every word (notes/assumptions/8.md). `decode` reads both. -/
def decodeTableWord (nbits w : Nat) : Option Instr :=
  match decode ⟨.S, w % 2 ^ nbits⟩ with
  | .ok i => some i
  | .error _ => none

end Sys2Proof
end

