-- ==== Sys2Proof/Machine/State.lean ====
section
/-! DEFINITION. The state: the registers of 10_state.md R10, the inputs of the coming step and what the host does after it
(notes/assumptions/1.md), and the model's own draw index (notes/assumptions/4.md). `busy`, `done`, `digest_hex`,
`digest_len` and the message port are functions of it (Machine/Flags.lean), not fields: "Everything else that appears in the
pseudocode … is a combinational function of this state and of the inputs, and is not state" (R10). -/

namespace Sys2Proof.Machine

/-- Why the machine stops with a fault: never. "No operation can fail, fault, trap or refuse" (00_scope.md R6); "The core
raises no synchronous exception, for any operation, any state and any input" (60_exceptions.md R170). -/
inductive Fault where
  deriving DecidableEq, Repr

/-- Why an operation has no meaning. -/
inductive Refusal where
  /-- Asked for by the host's interface: an arm of `exec` without a meaning. No arm raises it, and no operation refuses
  (00_scope.md R6). Safe: it would only stop the model. -/
  | notModelled (mnemonic : String)
  deriving DecidableEq, Repr

/-- The message memory: what the host has placed in it, offset and byte (20_memory.md R40), in the canonical form of
`Memory.wf`. An offset that is not listed holds no byte of the host's (notes/assumptions/5.md). -/
abbrev Memory := List Host.Cell

/-- The eight working registers `a` to `h` (10_state.md R12), "a register set separate from `H`". -/
structure Work where
  a : Word
  b : Word
  c : Word
  d : Word
  e : Word
  f : Word
  g : Word
  h : Word
  deriving DecidableEq, Repr

/-- A byte the host stores into its message memory; the address space is the 61-bit offsets (20_memory.md R40). -/
structure HostStore where
  offset : BitVec 61
  byte : Byte
  deriving DecidableEq, Repr

/-- What the host does for one step: the command word and `msg_len` it presents (30_encoding.md R61, R63, R72) and what it
stores into the message memory before the step (20_memory.md R41; 70_reset_and_hazards.md R194). -/
structure HostDrive where
  hin : BitVec 3
  msgLen : BitVec 61
  stores : List HostStore
  deriving DecidableEq, Repr

structure State where
  /-- `PHASE`, 3 bits (10_state.md R16). -/
  PHASE : Phase
  /-- `N`, the block index (10_state.md R17). -/
  N : BitVec 56
  /-- `J`, the round index (10_state.md R18). -/
  J : BitVec 6
  /-- `VARIANT`, 1 bit (10_state.md R19). -/
  VARIANT : Variant
  /-- `LEN`, the message length in bytes (10_state.md R20). -/
  LEN : BitVec 61
  /-- `H[0..7]`, the Hash State (10_state.md R11). -/
  H : Vector Word 8
  /-- `a` to `h`, the working registers (10_state.md R12). -/
  WK : Work
  /-- `W[0..63]`, the Message Schedule (10_state.md R13). -/
  W : Vector Word 64
  /-- `BLK[0..63]`, the current Block (10_state.md R14). -/
  BLK : Vector Byte 64
  /-- `DIGEST_HEX[0..63]`, the output string buffer (10_state.md R15). -/
  DIGEST_HEX : Vector Byte 64
  /-- The command word on the ports `rst`, `start`, `variant` in the coming step (30_encoding.md R61). -/
  hin : BitVec 3
  /-- The port `msg_len` in the coming step (10_state.md R26). -/
  msgLen : BitVec 61
  /-- The message memory in the coming step (20_memory.md R40). -/
  mem : Memory
  /-- What the host does for the steps after the coming one, the next first (30_encoding.md R72). -/
  host : List HostDrive
  /-- The index at which this step takes free values; the model's own (notes/assumptions/4.md). -/
  draw : Nat
  deriving DecidableEq, Repr

/-- Working registers nobody has specified: the free values drawn at index `d` after the contents `c`. -/
def Work.drawn (d : Nat) (c : List Nat) : Work :=
  ⟨Config.resetWK d c 0, Config.resetWK d c 1, Config.resetWK d c 2, Config.resetWK d c 3,
   Config.resetWK d c 4, Config.resetWK d c 5, Config.resetWK d c 6, Config.resetWK d c 7⟩

/-- The machine right after RESET (10_state.md R28; 70_reset_and_hazards.md R190): `PHASE` is IDLE and every other register
is unspecified, here the free values drawn at index 0 after no known contents (notes/assumptions/3.md). The host has placed nothing, presents NOP and
has nothing more to present (notes/assumptions/2.md). -/
def State.reset : State where
  PHASE := .idle
  N := Config.resetN 0 []
  J := Config.resetJ 0 []
  VARIANT := Variant.ofBit (Config.resetVariant 0 [])
  LEN := Config.resetLEN 0 []
  H := tabulate 8 (Config.resetH 0 [])
  WK := Work.drawn 0 []
  W := tabulate 64 (Config.resetW 0 [])
  BLK := tabulate 64 (Config.resetBLK 0 [])
  DIGEST_HEX := tabulate 64 (Config.resetDIGEST_HEX 0 [])
  hin := 0b000#3
  msgLen := 0#61
  mem := []
  host := []
  draw := 1

end Sys2Proof.Machine
end

