-- ==== Sys2Proof/Machine/Ops.lean ====
section
/-! DEFINITION. The named operations over memory and registers that the meanings are written with. Two of the operations a
model of another machine would have here do not exist on this one: "There is no trap mechanism: no trap entry, no saved
state, no vector table, no trap base register, no handler, no mode change" (60_exceptions.md R175) and "There is no trap
return" (R176), so there is no operation that takes an exception and none that returns from one. -/

namespace Sys2Proof.Machine

/-! ### The message memory -/

/-- How many offsets there are: 0 ≤ p < 2^61 (20_memory.md R40). -/
def addressSpace : Nat := 2 ^ 61

/-- The canonical form: offsets strictly rising and inside the address space. An unlisted offset has no value, so no entry
can equal what an unlisted offset reads as. -/
abbrev Memory.wf (m : Memory) : Prop :=
  m.Pairwise (fun c d => c.1 < d.1) ∧ ∀ c ∈ m, c.1 < addressSpace

/-- The byte the host has placed at an offset, if it has placed one. -/
def Memory.read : Memory → Nat → Option Byte
  | [], _ => none
  | (q, c) :: m, p => if p = q then some c else Memory.read m p

/-- The memory with one byte placed at an offset, in canonical form. The core has no such operation ("There is no `MemWrite`
anywhere in this spec", 20_memory.md R43): it is the host's. -/
def Memory.write : Memory → Nat → Byte → Memory
  | [], p, b => [(p, b)]
  | (q, c) :: m, p, b =>
    if p < q then (p, b) :: (q, c) :: m
    else if p = q then (p, b) :: m
    else (q, c) :: Memory.write m p b

/-- The memory after the host's stores, the first in the list first. -/
def Memory.storeAll (m : Memory) (stores : List HostStore) : Memory :=
  stores.foldl (fun m st => m.write st.offset.toNat st.byte) m

/-! ### Register writes, one for each register -/

/-- `PHASE <- p`. -/
def State.setPHASE (s : State) (p : Phase) : State := { s with PHASE := p }
/-- `N <- n`. -/
def State.setN (s : State) (n : BitVec 56) : State := { s with N := n }
/-- `J <- j`. -/
def State.setJ (s : State) (j : BitVec 6) : State := { s with J := j }
/-- `VARIANT <- v`. -/
def State.setVARIANT (s : State) (v : Variant) : State := { s with VARIANT := v }
/-- `LEN <- l`. -/
def State.setLEN (s : State) (l : BitVec 61) : State := { s with LEN := l }
/-- All eight words of `H`. -/
def State.setH (s : State) (h : Vector Word 8) : State := { s with H := h }
/-- All eight working registers. -/
def State.setWK (s : State) (r : Work) : State := { s with WK := r }
/-- All 64 words of `W`. -/
def State.setW (s : State) (w : Vector Word 64) : State := { s with W := w }
/-- All 64 bytes of `BLK`. -/
def State.setBLK (s : State) (b : Vector Byte 64) : State := { s with BLK := b }
/-- All 64 bytes of `DIGEST_HEX`. -/
def State.setDIGEST_HEX (s : State) (d : Vector Byte 64) : State := { s with DIGEST_HEX := d }

/-- What the working registers hold, as numbers. -/
def Work.contents (r : Work) : List Nat :=
  [r.a.toNat, r.b.toNat, r.c.toNat, r.d.toNat, r.e.toNat, r.f.toNat, r.g.toNat, r.h.toNat]

/-- What every register of 10_state.md R10 holds, as numbers: what a value left by RESET may depend on. -/
def State.contents (s : State) : List Nat :=
  [s.PHASE.bits.toNat, s.N.toNat, s.J.toNat, s.VARIANT.bit.toNat, s.LEN.toNat] ++ s.H.toList.map BitVec.toNat ++
    s.WK.contents ++ s.W.toList.map BitVec.toNat ++ s.BLK.toList.map BitVec.toNat ++ s.DIGEST_HEX.toList.map BitVec.toNat

/-- Every register but `PHASE` unspecified, each the free value of this step's draw (10_state.md R28; 70_reset_and_hazards.md
R190; 93_implementation_defined.md U1: "Draw each freely at every RESET"). -/
def State.drawRegisters (s : State) : State :=
  (((((((((s.setN (Config.resetN s.draw s.contents)).setJ (Config.resetJ s.draw s.contents)).setVARIANT
    (Variant.ofBit (Config.resetVariant s.draw s.contents))).setLEN (Config.resetLEN s.draw s.contents)).setH
    (tabulate 8 (Config.resetH s.draw s.contents))).setWK (Work.drawn s.draw s.contents)).setW
    (tabulate 64 (Config.resetW s.draw s.contents))).setBLK (tabulate 64 (Config.resetBLK s.draw s.contents))).setDIGEST_HEX
    (tabulate 64 (Config.resetDIGEST_HEX s.draw s.contents)))

/-! ### Between two steps -/

/-- The end of a step: the host's next entry is put on the ports and its stores are made (notes/assumptions/1.md,
notes/assumptions/10.md); with no entry left the host presents NOP (notes/assumptions/2.md). The next step draws its free
values at the next index (notes/assumptions/4.md). No register of 10_state.md R10 changes. -/
def State.endStep (s : State) : State :=
  match s.host with
  | [] => { s with hin := 0b000#3, draw := s.draw + 1 }
  | d :: rest =>
    { s with hin := d.hin, msgLen := d.msgLen, mem := s.mem.storeAll d.stores, host := rest, draw := s.draw + 1 }

end Sys2Proof.Machine
end

