-- ==== Sys2Proof/Machine/Operands.lean ====
section
/-! DEFINITION. Operand assembly: "What has to be assembled from smaller pieces is data: words from bytes, the length field
from the length, the output string from words" (30_encoding.md section 4), and the operands that registers select. -/

namespace Sys2Proof.Machine

/-! ### Registers and tables read through an index -/

/-- `K[j]` for a round index (30_encoding.md R73). -/
def kAt (j : BitVec 6) : Word := K[j.toNat]'j.isLt

/-- `w[j]` for a round index: the schedule word a ROUND uses (43_compressor_round.md R122). -/
def wAt (w : Vector Word 64) (j : BitVec 6) : Word := w[j.toNat]'j.isLt

/-- `WK[0..7]`: `WK[0] = a`, …, `WK[7] = h` (10_state.md R12). -/
def Work.toVector (r : Work) : Vector Word 8 := ⟨#[r.a, r.b, r.c, r.d, r.e, r.f, r.g, r.h], rfl⟩

/-- The working registers loaded from eight words, index to index (10_state.md R12; 43_compressor_round.md R121). -/
def Work.ofVector (v : Vector Word 8) : Work := ⟨v[0], v[1], v[2], v[3], v[4], v[5], v[6], v[7]⟩

/-! ### Words, nibbles and the length field -/

/-- `{b0, b1, b2, b3}`: "The byte at the lowest offset is the most significant byte of the word" (20_memory.md R44). -/
def wordOfBytes (b0 b1 b2 b3 : Byte) : Word := b0 ++ b1 ++ b2 ++ b3

/-- `w[31 − 4d : 28 − 4d]`: digit 0 is the most significant nibble (30_encoding.md R70; 44_digest_formatter.md R132). -/
def hexDigit (w : Word) (d : Nat) : BitVec 4 := w.extractLsb' (28 - 4 * d) 4

/-- `bit_length = {LEN[60:0], 0b000}`, 64 bits (41_padder.md R103). -/
def bitLength (len : BitVec 61) : BitVec 64 := len ++ 0b000#3

/-- Byte number `q` of a 64-bit value, counting from the least significant byte as byte 0 (41_padder.md R102). -/
def byteOf64 (v : BitVec 64) (q : Nat) : Byte := v.extractLsb' (8 * q) 8

/-! ### The message byte -/

/-- `MemRead(p, 1)`: the byte the host's memory holds at the step of the read (20_memory.md R41). An offset the host has
placed no byte at gives a free value and the machine goes on (93_implementation_defined.md U3; notes/assumptions/5.md). -/
def State.memRead (s : State) (p : Nat) : Byte :=
  match s.mem.read p with
  | some b => b
  | none => Config.unsuppliedByte s.draw p

/-- The output word count: "`NW(v)` is 8 if `v = 0` and 7 if `v = 1`" (00_scope.md R4, R7). -/
def NW : Variant → Nat
  | .sha256 => 8
  | .sha224 => 7

end Sys2Proof.Machine
end

