-- ==== Sys2Proof/Machine/WordFunctions.lean ====
section
/-! DEFINITION. The word functions of 40_word_functions.md: "The machine has the following arithmetic and no other" (R89). -/

namespace Sys2Proof.Machine

/-- `add32(x1, …, xn) = (x1 + … + xn) mod 2^32`, computed over the naturals and then narrowed (40_word_functions.md R80). -/
def add32 (xs : List Word) : Word := BitVec.ofNat 32 (xs.map BitVec.toNat).sum

/-- `rotr(x, n) = (x >> n) | ((x << (32 − n)) mod 2^32)`, 1 ≤ n ≤ 31 (40_word_functions.md R81). -/
def rotr (x : Word) (n : Nat) : Word := (x >>> n) ||| (x <<< (32 - n))

/-- `shr(x, n)`: logical shift right, zeros enter at the top (40_word_functions.md R82). -/
def shr (x : Word) (n : Nat) : Word := x >>> n

/-- `Ch(x, y, z) = (x & y) ^ (~x & z)` (40_word_functions.md R83). -/
def Ch (x y z : Word) : Word := (x &&& y) ^^^ (~~~x &&& z)

/-- `Maj(x, y, z) = (x & y) ^ (x & z) ^ (y & z)` (40_word_functions.md R84). -/
def Maj (x y z : Word) : Word := (x &&& y) ^^^ (x &&& z) ^^^ (y &&& z)

/-- `Sigma0(x) = rotr(x,2) ^ rotr(x,13) ^ rotr(x,22)` (40_word_functions.md R85). -/
def Sigma0 (x : Word) : Word := rotr x 2 ^^^ rotr x 13 ^^^ rotr x 22

/-- `Sigma1(x) = rotr(x,6) ^ rotr(x,11) ^ rotr(x,25)` (40_word_functions.md R86). -/
def Sigma1 (x : Word) : Word := rotr x 6 ^^^ rotr x 11 ^^^ rotr x 25

/-- `sigma0(x) = rotr(x,7) ^ rotr(x,18) ^ (x >> 3)` (40_word_functions.md R87). -/
def sigma0 (x : Word) : Word := rotr x 7 ^^^ rotr x 18 ^^^ shr x 3

/-- `sigma1(x) = rotr(x,17) ^ rotr(x,19) ^ (x >> 10)` (40_word_functions.md R88). -/
def sigma1 (x : Word) : Word := rotr x 17 ^^^ rotr x 19 ^^^ shr x 10

end Sys2Proof.Machine
end

