-- ==== Sys2Proof/Machine/Compressor.lean ====
section
/-! DEFINITION. `sha256_compressor_round` and the operations WINIT and ROUND (43_compressor_round.md). -/

namespace Sys2Proof.Machine

/-- The wire `T1` of a round (43_compressor_round.md R120). -/
def roundT1 (r : Work) (k w : Word) : Word := add32 [r.h, Sigma1 r.e, Ch r.e r.f r.g, k, w]

/-- The wire `T2` of a round (43_compressor_round.md R120). -/
def roundT2 (r : Work) : Word := add32 [Sigma0 r.a, Maj r.a r.b r.c]

/-- One round: `sha256_compressor_round`, combinational; "every right-hand side is a value from before the round"
(43_compressor_round.md R120). -/
def sha256Round (r : Work) (k w : Word) : Work where
  a := add32 [roundT1 r k w, roundT2 r]
  b := r.a
  c := r.b
  d := r.c
  e := add32 [r.d, roundT1 r k w]
  f := r.e
  g := r.f
  h := r.g

/-- The working registers after `n` rounds: `r_0 = r`, `r_{j+1} = round(r_j, K[j], w[j])` (43_compressor_round.md R123). -/
def roundsFrom (r : Work) (w : Vector Word 64) : Nat → Work
  | 0 => r
  | n + 1 => sha256Round (roundsFrom r w n) (kAt (BitVec.ofNat 6 n)) (wAt w (BitVec.ofNat 6 n))

/-- `compress(registers, schedule)`: all 64 rounds (43_compressor_round.md R123). -/
def compress (r : Work) (w : Vector Word 64) : Work := roundsFrom r w 64

/-- WINIT (43_compressor_round.md R121): `a..h <- H[0..7]`, `J <- 0`, `PHASE <- ROUND`. -/
def execWinit (s : State) : Host.Outcome State Fault Refusal :=
  .next (((s.setWK (Work.ofVector s.H)).setJ 0#6).setPHASE .round)

/-- ROUND (43_compressor_round.md R122): one round with `K[J]` and `W[J]`; `J <- (J + 1) mod 64`; after the round with
`J = 63`, `PHASE <- FOLD`. -/
def execRound (s : State) : Host.Outcome State Fault Refusal :=
  .next (((s.setWK (sha256Round s.WK (kAt s.J) (wAt s.W s.J))).setJ (BitVec.ofNat 6 ((s.J.toNat + 1) % 64))).setPHASE
    (if s.J = 63#6 then .fold else s.PHASE))

end Sys2Proof.Machine
end

