-- ==== Sys2Proof/Machine/Formatter.lean ====
section
/-! DEFINITION. `sha256_digest_formatter` and the operation FORMAT (44_digest_formatter.md). -/

namespace Sys2Proof.Machine

/-- `hexchar(v)`: the ASCII code of the lowercase hexadecimal digit of `v` (44_digest_formatter.md R131). -/
def hexchar (v : BitVec 4) : Byte :=
  if v.toNat ≤ 9 then 0x30#8 + v.setWidth 8 else 0x57#8 + v.setWidth 8

/-- `digest_len = 8 · NW(VARIANT)` (10_state.md R27; 44_digest_formatter.md R135). -/
def digestChars (v : Variant) : BitVec 7 := BitVec.ofNat 7 (8 * NW v)

/-- Character `c = 8w + d` of the output: digit `d` of `H[w]`, and 0x00 past the words the variant outputs
(44_digest_formatter.md R132, R133, R134). -/
def digestChar (h : Vector Word 8) (v : Variant) (c : Nat) : Byte :=
  if c / 8 < NW v then hexchar (hexDigit (h.getD (c / 8) 0#32) (c % 8)) else 0x00#8

/-- The outputs of `sha256_digest_formatter` (10_state.md R34). -/
structure FormatterOut where
  hex : Vector Byte 64
  len : BitVec 7
  deriving DecidableEq, Repr

/-- `sha256_digest_formatter`, combinational (44_digest_formatter.md section 2; 10_state.md R34). -/
def sha256DigestFormatter (h : Vector Word 8) (v : Variant) : FormatterOut where
  hex := tabulate 64 (digestChar h v)
  len := digestChars v

/-- FORMAT (44_digest_formatter.md R133): all 64 bytes of `DIGEST_HEX`, `PHASE <- DONE`. -/
def execFormat (s : State) : Host.Outcome State Fault Refusal :=
  .next ((s.setDIGEST_HEX (sha256DigestFormatter s.H s.VARIANT).hex).setPHASE .done)

end Sys2Proof.Machine
end

