-- ==== Sys2Proof/Machine/Padder.lean ====
section
/-! DEFINITION. `sha256_padder` and the operation PAD (41_padder.md). -/

namespace Sys2Proof.Machine

/-! ### Lengths (41_padder.md R101) -/

/-- `k(L) = (119 − (L mod 64)) mod 64`: how many zero bytes the padding has. -/
def padZeros (L : Nat) : Nat := (119 - L % 64) % 64

/-- `NBLK(L) = (L + 8) div 64 + 1`: how many blocks the Padded Buffer has. -/
def NBLK (L : Nat) : Nat := (L + 8) / 64 + 1

/-- `PLEN(L) = 64 · ((L + 8) div 64 + 1)`: the length of the Padded Buffer in bytes. -/
def PLEN (L : Nat) : Nat := 64 * ((L + 8) / 64 + 1)

/-! ### The sub-module -/

/-- `PadByte(L, i)` (41_padder.md R102), with `m` standing for `MemRead(i, 1)`. The four cases are R102's; beyond the Padded
Buffer the byte is not specified and is a free value (R106; notes/assumptions/6.md). -/
def padByte (len : BitVec 61) (m : Byte) (i : Nat) : Byte :=
  if i < len.toNat then m
  else if i = len.toNat then 0x80#8
  else if i < PLEN len.toNat - 8 then 0x00#8
  else if i < PLEN len.toNat then byteOf64 (bitLength len) (PLEN len.toNat - 1 - i)
  else Config.padByteBeyond len.toNat i m

/-- The outputs of `sha256_padder` (10_state.md R34). -/
structure PadderOut where
  blk : Vector Byte 64
  rd : Vector Bool 64
  last : Bool
  deriving DecidableEq, Repr

/-- The last-block test of the padder's output `last`: "1 iff 64·(blk_idx + 1) = PLEN(len)" (41_padder.md R106). It is what the
output carries where the padder is used, `blk_idx < NBLK(len)`. -/
def padderLast (len : BitVec 61) (blkIdx : BitVec 56) : Bool :=
  decide (64 * (blkIdx.toNat + 1) = PLEN len.toNat)

/-- Whether the core requests the message byte for `BLK[i]`: it reads the offset "iff 64·N + i < LEN" (41_padder.md R104;
20_memory.md R42), which is also what the padder's output `rd[i]` carries where the padder is used (R106). -/
def padderRd (len : BitVec 61) (blkIdx : BitVec 56) (i : Nat) : Bool :=
  decide (64 * blkIdx.toNat + i < len.toNat)

/-- `sha256_padder`, combinational (41_padder.md R106; 10_state.md R34). "for larger `blk_idx` its outputs are not specified":
there all three are free values, `blk` through `padByte` because its offsets are then at or beyond `PLEN(len)` (DESIGN CHOICE,
notes/assumptions/6.md). -/
def sha256Padder (len : BitVec 61) (blkIdx : BitVec 56) (m : Vector Byte 64) : PadderOut where
  blk := tabulate 64 fun i => padByte len (m.getD i 0x00#8) (64 * blkIdx.toNat + i)
  rd := tabulate 64 fun i =>
    if blkIdx.toNat < NBLK len.toNat then padderRd len blkIdx i
    else Config.padRdBeyond len.toNat blkIdx.toNat m.toList i
  last := if blkIdx.toNat < NBLK len.toNat then padderLast len blkIdx
    else Config.padLastBeyond len.toNat blkIdx.toNat m.toList

/-! ### The operation -/

/-- The offsets a PAD step reads, in the order of the reads: 64·N + i for `i` in 0..63 where it is below `LEN`
(20_memory.md R42, R50). -/
def padReads (len : BitVec 61) (blkIdx : BitVec 56) : List Nat :=
  ((List.range 64).map (64 * blkIdx.toNat + ·)).filter (· < len.toNat)

/-- `m[i]` of the padder: the message byte at 64·N + i where the core requests it, and what an idle `msg_rdata` carries where
it does not (10_state.md R34; notes/assumptions/16.md). -/
def State.padderBytes (s : State) : Vector Byte 64 :=
  tabulate 64 fun i =>
    if padderRd s.LEN s.N i then s.memRead (64 * s.N.toNat + i) else Config.idleRdata s.draw (64 * s.N.toNat + i)

/-- PAD (41_padder.md R104): `BLK[i] <- PadByte(LEN, 64·N + i)`, `PHASE <- SCHED`. -/
def execPad (s : State) : Host.Outcome State Fault Refusal :=
  .next ((s.setBLK (sha256Padder s.LEN s.N s.padderBytes).blk).setPHASE .sched)

end Sys2Proof.Machine
end

