-- ==== Sys2Proof/Machine/Flags.lean ====
section
/-! DEFINITION. The status flags and the other output ports (10_state.md R24, R25, R27). "There are no arithmetic condition
codes (no carry, zero, overflow or sign flag): every addition discards its carry" (R24). -/

namespace Sys2Proof.Machine

/-- `busy = 1` if `PHASE` is one of PAD, SCHED, WINIT, ROUND, FOLD, FORMAT, else 0 (10_state.md R24). -/
def phaseBusy : Phase → Bool
  | .idle => false
  | .pad => true
  | .sched => true
  | .winit => true
  | .round => true
  | .fold => true
  | .format => true
  | .done => false

/-- The output `busy`, a pure function of `PHASE` (10_state.md R24). -/
def State.busy (s : State) : Bool := phaseBusy s.PHASE

/-- The output `done`: 1 if `PHASE = DONE`, else 0 (10_state.md R24). -/
def State.done (s : State) : Bool := decide (s.PHASE = .done)

/-- The output port `digest_hex`: element `i` is `DIGEST_HEX[i]` (10_state.md R27). -/
def State.digestHex (s : State) : Vector Byte 64 := s.DIGEST_HEX

/-- The output port `digest_len` (10_state.md R27). -/
def State.digestLen (s : State) : BitVec 7 := digestChars s.VARIANT

/-- The digest string the host reads: `digest_hex[0]` to `digest_hex[digest_len − 1]`, "read while `done = 1`" (10_state.md
R25), and nothing while `done = 0` (70_reset_and_hazards.md R197; 93_implementation_defined.md U4). -/
def State.digestString (s : State) : Option (List Byte) :=
  if s.done then some (s.digestHex.toList.take s.digestLen.toNat) else none

/-- The message port in the coming step: the offsets on `msg_addr` while `msg_re = 1`, in order (10_state.md R27), when the
step performs the operation `i`. "The only operation that accesses memory is PAD" (20_memory.md R42). -/
def State.memReadsOf (s : State) : Instr → List Nat
  | .pad => padReads s.LEN s.N
  | .reset _ => []
  | .nop _ => []
  | .startSha256 => []
  | .startSha224 => []
  | .idle => []
  | .sched => []
  | .winit => []
  | .round => []
  | .fold => []
  | .format => []
  | .hold => []

end Sys2Proof.Machine
end

