-- ==== Sys2Proof/Machine/Scheduler.lean ====
section
/-! DEFINITION. `sha256_block_scheduler` and the operation SCHED (42_block_scheduler.md). -/

namespace Sys2Proof.Machine

/-- Words 0 to 15: the block's 4-byte groups, big-endian (42_block_scheduler.md R111; 30_encoding.md R68). -/
def blockWord (blk : Vector Byte 64) (t : Nat) : Word :=
  wordOfBytes (blk.getD (4 * t) 0#8) (blk.getD (4 * t + 1) 0#8) (blk.getD (4 * t + 2) 0#8) (blk.getD (4 * t + 3) 0#8)

/-- The word that follows the words 0 to t − 1, for t ≥ 16: `add32(sigma1(w[t−2]), w[t−7], sigma0(w[t−15]), w[t−16])`
(42_block_scheduler.md R112). -/
def nextScheduleWord (w : List Word) : Word :=
  let t := w.length
  add32 [sigma1 (w.getD (t - 2) 0#32), w.getD (t - 7) 0#32, sigma0 (w.getD (t - 15) 0#32), w.getD (t - 16) 0#32]

/-- `n` more words of the recurrence, "in that order of dependence" (42_block_scheduler.md R112). -/
def extendSchedule : Nat → List Word → List Word
  | 0, w => w
  | n + 1, w => extendSchedule n (w ++ [nextScheduleWord w])

theorem extendSchedule_length (n : Nat) (w : List Word) : (extendSchedule n w).length = w.length + n := by
  induction n generalizing w with
  | zero => rfl
  | succ n ih => rw [extendSchedule, ih]; simp; omega

/-- `expand(blk)`: the 64-word schedule of a block, "a pure function of the 64 bytes" (42_block_scheduler.md R110). This is
`sha256_block_scheduler`, combinational (R114; 10_state.md R34). -/
def expand (blk : Vector Byte 64) : Vector Word 64 :=
  ⟨(extendSchedule 48 ((List.range 16).map (blockWord blk))).toArray, by simp [extendSchedule_length]⟩

/-- SCHED (42_block_scheduler.md R113): `W <- expand(BLK)`, `PHASE <- WINIT`. -/
def execSched (s : State) : Host.Outcome State Fault Refusal :=
  .next ((s.setW (expand s.BLK)).setPHASE .winit)

end Sys2Proof.Machine
end

