-- ==== Sys2Proof/Machine/Sequencer.lean ====
section
/-! DEFINITION. What `sha256_core` does around its sub-modules: IDLE, HOLD, FOLD (45_core_sequencer.md sections 3, 4), and
the choice of the sequencer operation by `PHASE` (30_encoding.md R64). -/

namespace Sys2Proof.Machine

/-- IDLE: "no writes; every register keeps its value" (45_core_sequencer.md R144). -/
def execIdle (s : State) : Host.Outcome State Fault Refusal := .next s

/-- HOLD: "no writes; every register keeps its value, in particular `DIGEST_HEX` and `VARIANT`" (45_core_sequencer.md
R145). -/
def execHold (s : State) : Host.Outcome State Fault Refusal := .next s

/-- `H[i] <- add32(H[i], WK[i])` for all eight words, for both variants (45_core_sequencer.md R146). -/
def foldHash (h : Vector Word 8) (r : Work) : Vector Word 8 :=
  tabulate 8 fun i => add32 [h.getD i 0#32, r.toVector.getD i 0#32]

/-- Whether the block just folded is the last: `N + 1 = NBLK(LEN)`, over the naturals (45_core_sequencer.md R146). -/
def State.lastBlock (s : State) : Bool := decide (s.N.toNat + 1 = NBLK s.LEN.toNat)

/-- FOLD (45_core_sequencer.md R146): the additive fold; then FORMAT after the last block, and otherwise the next block. `N`
is 56 bits wide, so a carry out of `N + 1`, which no reachable state has (R148), is dropped (notes/assumptions/7.md). -/
def execFold (s : State) : Host.Outcome State Fault Refusal :=
  .next (((s.setH (foldHash s.H s.WK)).setN (if s.lastBlock then s.N else BitVec.ofNat 56 (s.N.toNat + 1))).setPHASE
    (if s.lastBlock then .format else .pad))

/-- The sequencer operation selected by `PHASE` (30_encoding.md R64). -/
def performSequencer (s : State) : Host.Outcome State Fault Refusal :=
  match s.PHASE with
  | .idle => execIdle s
  | .pad => execPad s
  | .sched => execSched s
  | .winit => execWinit s
  | .round => execRound s
  | .fold => execFold s
  | .format => execFormat s
  | .done => execHold s

end Sys2Proof.Machine
end

