-- ==== Sys2Proof/Machine/Commands.lean ====
section
/-! DEFINITION. The host commands: NOP, START_SHA256, START_SHA224 (45_core_sequencer.md section 2) and RESET
(70_reset_and_hazards.md R190). -/

namespace Sys2Proof.Machine

/-- RESET (70_reset_and_hazards.md R190): `PHASE <- IDLE`, every other register unspecified afterwards. The ignored bits are
`hin[1:0]`. "It does not touch the message memory" (R192). -/
def execReset (_ignored : BitVec 2) (s : State) : Host.Outcome State Fault Refusal :=
  .next (s.drawRegisters.setPHASE .idle)

/-- NOP (45_core_sequencer.md R143): it "writes nothing" itself; "the core performs the sequencer operation selected by
`PHASE`". The ignored bit is `hin[0]`. -/
def execNop (_ignored : BitVec 1) (s : State) : Host.Outcome State Fault Refusal := performSequencer s

/-- The writes of an accepted START (45_core_sequencer.md R141, R142): the two commands "differ in nothing else" than the
variant and its initial Hash State. -/
def State.start (s : State) (v : Variant) : State :=
  (((((s.setVARIANT v).setLEN s.msgLen).setH (IV v)).setN 0#56).setJ 0#6).setPHASE .pad

/-- START_SHA256 (45_core_sequencer.md R141): accepted while the core is not busy; while it is busy the START is ignored and
the sequencer operation is performed "exactly as if the command word were NOP" (R151). -/
def execStartSha256 (s : State) : Host.Outcome State Fault Refusal :=
  if s.busy then performSequencer s else .next (s.start .sha256)

/-- START_SHA224 (45_core_sequencer.md R142, R151). -/
def execStartSha224 (s : State) : Host.Outcome State Fault Refusal :=
  if s.busy then performSequencer s else .next (s.start .sha224)

end Sys2Proof.Machine
end

