-- ==== Sys2Proof/Machine/Dispatch.lean ====
section
/-! DEFINITION. What each operation does: one arm per constructor, one call of its meaning. -/

namespace Sys2Proof.Machine

def exec (i : Instr) (s : State) : Host.Outcome State Fault Refusal :=
  match i with
  | .reset ignored => Sys2Proof.Machine.execReset ignored s
  | .nop ignored => Sys2Proof.Machine.execNop ignored s
  | .startSha256 => Sys2Proof.Machine.execStartSha256 s
  | .startSha224 => Sys2Proof.Machine.execStartSha224 s
  | .idle => Sys2Proof.Machine.execIdle s
  | .pad => Sys2Proof.Machine.execPad s
  | .sched => Sys2Proof.Machine.execSched s
  | .winit => Sys2Proof.Machine.execWinit s
  | .round => Sys2Proof.Machine.execRound s
  | .fold => Sys2Proof.Machine.execFold s
  | .format => Sys2Proof.Machine.execFormat s
  | .hold => Sys2Proof.Machine.execHold s

end Sys2Proof.Machine
end

