-- ==== Sys2Proof/Machine/Step.lean ====
section
/-! DEFINITION. One step: "In each step the machine performs exactly one *operation*, chosen by the dispatch rule"
(00_scope.md R5), after which the host's next entry is on the ports. -/

namespace Sys2Proof.Machine

/-- The operation the coming step performs (30_encoding.md R65). The machine has no program counter and no fetch (10_state.md
R33): the operation is selected by the command word on the ports and by `PHASE`. -/
def State.operation (s : State) : Instr := dispatch s.hin s.PHASE.bits

/-- The offsets the coming step reads from the message memory, in order (10_state.md R27: `msg_addr` while `msg_re = 1`). -/
def State.memReads (s : State) : List Nat := s.memReadsOf s.operation

/-- One step (00_scope.md R5, R6). -/
def step (s : State) : Host.Outcome State Fault Refusal :=
  match exec s.operation s with
  | .next t => .next t.endStep
  | .fault r => .fault r
  | .refused r => .refused r

/-- The state in which the coming step performs the operation that `decodeTableWord` reads: a word of format S is the content
of `PHASE`, with NOP on the ports so that the phase's operation is what the step performs (30_encoding.md R64, R65;
notes/assumptions/8.md). A word that is no operation changes nothing. -/
def State.withFetchWord (s : State) (nbits w : Nat) : State :=
  match decodeTableWord nbits w with
  | some _ => { s with PHASE := Phase.ofBits (BitVec.ofNat 3 (w % 2 ^ nbits)), hin := 0b000#3 }
  | none => s

end Sys2Proof.Machine
end

