-- ==== Sys2Proof/Machine/Reference.lean ====
section
/-! DEFINITION. The reference function `SHA(v, m)` of 45_core_sequencer.md R153: "the specification of the document's two
entry points, independent of any hardware". It shares the word functions, the round, the schedule and the digit rendering
with the machine (they are the spec's one definition of each) and nothing of the state or the step. -/

namespace Sys2Proof.Machine

/-- "`bit_length` as 8 bytes, big-endian (most significant byte first)" (41_padder.md R100; 20_memory.md R45). -/
def lengthField (L : Nat) : List Byte :=
  (List.range 8).map fun q => byteOf64 (bitLength (BitVec.ofNat 61 L)) (7 - q)

/-- `pad(m)`: the message, a single 0x80 byte, the zero bytes, the length field (41_padder.md R100; 30_encoding.md R69). -/
def padMessage (m : List Byte) : List Byte :=
  m ++ [0x80#8] ++ List.replicate (padZeros m.length) 0x00#8 ++ lengthField m.length

/-- Bytes 64·n to 64·n + 63 of a padded buffer (30_encoding.md R68). -/
def blockAt (b : List Byte) (n : Nat) : Vector Byte 64 := tabulate 64 fun i => b.getD (64 * n + i) 0x00#8

/-- The Hash State after one block: schedule, 64 rounds from the Hash State, additive fold (45_core_sequencer.md R153). -/
def hashBlock (h : Vector Word 8) (blk : Vector Byte 64) : Vector Word 8 :=
  foldHash h (compress (Work.ofVector h) (expand blk))

/-- The Hash State after the first `n` blocks of a padded buffer, in order (45_core_sequencer.md R153). -/
def hashBlocks (v : Variant) (b : List Byte) : Nat → Vector Word 8
  | 0 => IV v
  | n + 1 => hashBlock (hashBlocks v b n) (blockAt b n)

/-- `format(state, nw)`: the string of `8·nw` characters (44_digest_formatter.md R130). -/
def formatString (h : Vector Word 8) (v : Variant) : List Byte := (List.range (8 * NW v)).map (digestChar h v)

/-- `SHA(v, m)` (45_core_sequencer.md R153). -/
def SHA (v : Variant) (m : List Byte) : List Byte :=
  formatString (hashBlocks v (padMessage m) (NBLK m.length)) v

end Sys2Proof.Machine
end

