-- ==== Sys2Proof/Safety.lean ====
section
/-! DEFINITION. The terms the claims are written in: what an operation may change, runs of the machine, what the host does
during a run, and the invariant that a run from RESET keeps. The machine has no unsafe outcome of its own (00_scope.md R6:
"No operation can fail, fault, trap or refuse"); a run is safe when every step of it is a next state and the digest is read
only while `done = 1` (70_reset_and_hazards.md R197). -/

namespace Sys2Proof.Machine

/-! ### What an operation may change -/

/-- The registers of 10_state.md R10. -/
inductive Reg where
  | PHASE
  | N
  | J
  | VARIANT
  | LEN
  | H
  | WK
  | W
  | BLK
  | DIGEST_HEX
  deriving DecidableEq, Repr

/-- The register holds the same value in both states. -/
def SameReg (s t : State) : Reg → Prop
  | .PHASE => t.PHASE = s.PHASE
  | .N => t.N = s.N
  | .J => t.J = s.J
  | .VARIANT => t.VARIANT = s.VARIANT
  | .LEN => t.LEN = s.LEN
  | .H => t.H = s.H
  | .WK => t.WK = s.WK
  | .W => t.W = s.W
  | .BLK => t.BLK = s.BLK
  | .DIGEST_HEX => t.DIGEST_HEX = s.DIGEST_HEX

/-- The ports, the host's coming entries and the draw index are the same in both states. -/
def SamePorts (s t : State) : Prop :=
  t.hin = s.hin ∧ t.msgLen = s.msgLen ∧ t.host = s.host ∧ t.draw = s.draw

/-- The frame of an operation that writes at most the registers listed: every other register, every byte of the message
memory, and everything of the host's is as before. -/
def FrameExcept (written : List Reg) (s t : State) : Prop :=
  (∀ r, r ∉ written → SameReg s t r) ∧ (∀ p, t.mem.read p = s.mem.read p) ∧ SamePorts s t

/-- The operation reads no memory in this state: with any other message memory it makes the same changes. -/
def IgnoresMemory (i : Instr) (s : State) : Prop :=
  ∀ m t, exec i s = .next t → exec i { s with mem := m } = .next { t with mem := m }

/-! ### Runs -/

/-- The state after `k` steps. -/
def run : Nat → State → Host.Outcome State Fault Refusal
  | 0, s => .next s
  | k + 1, s =>
    match step s with
    | .next t => run k t
    | .fault r => .fault r
    | .refused r => .refused r

/-- The sequencer position (10_state.md R33) and the operation performed, for each of `k` steps in order. -/
def operationTrace : Nat → State → List (Instr × Nat × Nat)
  | 0, _ => []
  | k + 1, s =>
    (s.operation, s.N.toNat, s.J.toNat) ::
      match step s with
      | .next t => operationTrace k t
      | .fault _ => []
      | .refused _ => []

/-- The offsets read from the message memory in `k` steps, in order. -/
def readTrace : Nat → State → List Nat
  | 0, _ => []
  | k + 1, s =>
    s.memReads ++
      match step s with
      | .next t => readTrace k t
      | .fault _ => []
      | .refused _ => []

/-! ### What the host does -/

/-- The coming step accepts a START of the variant: `rst = 0`, `start = 1`, `variant` its tag, and the core is not busy
(00_scope.md section 7, "Accepted"). -/
def State.acceptsStart (s : State) (v : Variant) : Prop :=
  rstBit s.hin = false ∧ startBit s.hin = true ∧ Variant.ofBit (BitVec.ofBool (variantBit s.hin)) = v ∧ s.busy = false

/-- The host presents `rst = 0` in each of the `k` steps after the coming one. -/
def State.noResetFor (s : State) (k : Nat) : Prop := ∀ d ∈ s.host.take k, rstBit d.hin = false

/-- The host presents `start = 0` in each of the `k` steps after the coming one. -/
def State.noStartFor (s : State) (k : Nat) : Prop := ∀ d ∈ s.host.take k, startBit d.hin = false

/-- The message memory holds the bytes of `m` at the offsets from 0. -/
def State.holdsMessage (s : State) (m : List Byte) : Prop :=
  ∀ p, (h : p < m.length) → s.mem.read p = some m[p]

/-- The message memory holds the bytes of `m` in the coming step and in each of the `k` steps after it: "the message memory holds
the same bytes ... throughout those steps" (45_core_sequencer.md R152; 70_reset_and_hazards.md R194). What the host stores is
otherwise free, at other offsets and of the byte already there. -/
def State.holdsMessageFor (s : State) (k : Nat) (m : List Byte) : Prop :=
  ∀ j, j ≤ k → ∀ t, run j s = .next t → t.holdsMessage m

/-- The operations of one block at the block index `n` (45_core_sequencer.md R140): PAD, SCHED, WINIT, 64 ROUNDs, FOLD. -/
def blockOperations (n : Nat) : List (Instr × Nat × Nat) :=
  [(.pad, n, 0), (.sched, n, 0), (.winit, n, 0)] ++ (List.range 64).map (fun j => (.round, n, j)) ++ [(.fold, n, 0)]

/-! ### The invariant -/

/-- What holds at every state a run from RESET reaches, whatever the host does. -/
structure State.Inv (s : State) : Prop where
  /-- The message memory is in canonical form. -/
  memory : s.mem.wf
  /-- "Invariant while busy: 0 ≤ `N` < NBLK(`LEN`)" (10_state.md R17). -/
  block : s.busy = true → s.N.toNat < NBLK s.LEN.toNat
  /-- `J` is 0 at every sequencer position but the rounds (45_core_sequencer.md R148). -/
  round : s.busy = true → s.PHASE ≠ .round → s.J = 0#6
  /-- The padding bytes of the block are in `BLK` from PAD to FOLD (10_state.md R14). -/
  padding : s.PHASE = .sched ∨ s.PHASE = .winit ∨ s.PHASE = .round ∨ s.PHASE = .fold →
    ∀ i, (h : i < 64) → s.LEN.toNat ≤ 64 * s.N.toNat + i → s.BLK[i] = padByte s.LEN 0x00#8 (64 * s.N.toNat + i)
  /-- `W` is the schedule of the block from SCHED to FOLD (10_state.md R13, R31). -/
  schedule : s.PHASE = .winit ∨ s.PHASE = .round ∨ s.PHASE = .fold → s.W = expand s.BLK
  /-- The working registers have gone through `J` rounds from the Hash State (43_compressor_round.md R123, R124). -/
  rounds : s.PHASE = .round → s.WK = roundsFrom (Work.ofVector s.H) s.W s.J.toNat
  /-- After the 64th round they hold `compress(H, W)` (43_compressor_round.md R123). -/
  compressed : s.PHASE = .fold → s.WK = compress (Work.ofVector s.H) s.W
  /-- "DONE means … `DIGEST_HEX` holds its digest" (10_state.md R16). -/
  digest : s.PHASE = .done → s.DIGEST_HEX = tabulate 64 (digestChar s.H s.VARIANT)

end Sys2Proof.Machine
end

