-- ==== Sys2Proof/Certificates/Slice0/Obligations.lean ====
section
/-! DEFINITION. The statements for the provers. The terms they use (frames, runs, what the host does, the invariant) are in
Sys2Proof/Safety.lean. A quotation in a docstring is the sentence of spec/ the statement formalises. -/

open Sys2Proof Sys2Proof.Machine

/-! ### Encoding and dispatch -/

/-- 30_encoding.md R62: "The decode is total over the eight values of `hin`", with its table and its match/mask form: a word
lies in the row of the operation it decodes to and in no other row of the format. -/
def Obligations.HostCommandWordsDecode : Prop :=
  (∀ lo : BitVec 2, decodeH (0b1#1 ++ lo) = .reset lo) ∧
  (∀ lo : BitVec 1, decodeH (0b00#2 ++ lo) = .nop lo) ∧
  decodeH 0b010#3 = .startSha256 ∧ decodeH 0b011#3 = .startSha224 ∧
  (∀ lo, opcodeRow (.reset lo) = ⟨.H, 0b100#3, 0b100#3⟩) ∧ (∀ lo, opcodeRow (.nop lo) = ⟨.H, 0b000#3, 0b110#3⟩) ∧
  opcodeRow .startSha256 = ⟨.H, 0b010#3, 0b111#3⟩ ∧ opcodeRow .startSha224 = ⟨.H, 0b011#3, 0b111#3⟩ ∧
  ∀ w i, (opcodeRow i).covers .H w = true ↔ opcodeRow i = opcodeRow (decodeH w)

/-- 30_encoding.md R64: "The decode is total over the eight values of `PHASE`", with its table, and each phase's own
encoding. -/
def Obligations.SequencerSelectorsDecode : Prop :=
  decodeS 0b000#3 = .idle ∧ decodeS 0b001#3 = .pad ∧ decodeS 0b010#3 = .sched ∧ decodeS 0b011#3 = .winit ∧
  decodeS 0b100#3 = .round ∧ decodeS 0b101#3 = .fold ∧ decodeS 0b110#3 = .format ∧ decodeS 0b111#3 = .hold ∧
  (∀ p : Phase, Phase.ofBits p.bits = p) ∧ (∀ w : BitVec 3, (Phase.ofBits w).bits = w)

/-- Decoding and encoding agree, both ways, with the ignored bits at every value, and a word wider than three bits is
rejected by name (30_encoding.md R60, R62, R64, R67). -/
def Obligations.DecodeAndEncodeAgree : Prop :=
  (∀ i : Instr, i.wellFormed = true → (encode i).wellFormed = true ∧ decode (encode i) = .ok i) ∧
  (∀ o : OpWord, o.wellFormed = true → ∃ i, decode o = .ok i ∧ i.wellFormed = true ∧ encode i = o) ∧
  (∀ o : OpWord, o.wellFormed = false → decode o = .error .widerThanThreeBits)

/-- 30_encoding.md R65, the dispatch of a step, clause by clause; the last says that a `start` presented while the core is
busy "is neither queued nor remembered": the step does not depend on `hin[1:0]`. -/
def Obligations.DispatchChoosesTheOperation : Prop :=
  ∀ s : State,
    (rstBit s.hin = true → s.operation = .reset (s.hin.extractLsb' 0 2)) ∧
    (rstBit s.hin = false → s.busy = false → startBit s.hin = true → variantBit s.hin = false →
      s.operation = .startSha256) ∧
    (rstBit s.hin = false → s.busy = false → startBit s.hin = true → variantBit s.hin = true →
      s.operation = .startSha224) ∧
    (rstBit s.hin = false → s.PHASE = .idle → startBit s.hin = false →
      s.operation = .idle ∧ exec s.operation s = .next s) ∧
    (rstBit s.hin = false → s.PHASE = .done → startBit s.hin = false →
      s.operation = .hold ∧ exec s.operation s = .next s) ∧
    (rstBit s.hin = false → s.busy = true → s.operation = decodeS s.PHASE.bits) ∧
    (rstBit s.hin = false → s.busy = true → ∀ w, rstBit w = false → step { s with hin := w } = step s)

/-- A step is `exec` of the dispatched operation (00_scope.md R5; 30_encoding.md R65), after which the host's next entry is
on the ports and its stores are in memory, the last store to an offset being the one that stays (20_memory.md R41, R52 d). How
the host's side is held between two steps is the model's own choice (notes/assumptions/1.md, 2.md, 4.md, 10.md). -/
def Obligations.StepRunsTheDispatchedOperation : Prop :=
  (∀ (s t : State) (i : Instr), dispatch s.hin s.PHASE.bits = i → exec i s = .next t → step s = .next t.endStep) ∧
  (∀ s : State, (∀ r, SameReg s s.endStep r) ∧ s.endStep.draw = s.draw + 1) ∧
  (∀ s : State, s.host = [] →
    s.endStep.hin = 0b000#3 ∧ s.endStep.msgLen = s.msgLen ∧ s.endStep.host = [] ∧
    ∀ p, s.endStep.mem.read p = s.mem.read p) ∧
  (∀ (s : State) (d : HostDrive) (rest : List HostDrive), s.host = d :: rest →
    s.endStep.hin = d.hin ∧ s.endStep.msgLen = d.msgLen ∧ s.endStep.host = rest ∧
    (∀ p, (∀ st ∈ d.stores, st.offset.toNat ≠ p) → s.endStep.mem.read p = s.mem.read p) ∧
    ∀ earlier st later, d.stores = earlier ++ st :: later → (∀ x ∈ later, x.offset ≠ st.offset) →
      s.endStep.mem.read st.offset.toNat = some st.byte)

/-- The two readings of a step agree: the operation R65 dispatches does what the decoded command word does, RESET and
accepted STARTs directly, NOP and unaccepted STARTs by performing the sequencer operation (30_encoding.md R62, R65;
45_core_sequencer.md R143, R151; notes/assumptions/11.md). -/
def Obligations.DispatchAgreesWithTheCommandWord : Prop :=
  ∀ s : State, exec s.operation s = exec (decodeH s.hin) s

/-- 00_scope.md R6: "No operation can fail, fault, trap or refuse." Every operation of the table completes in every state,
and so does every step. -/
def Obligations.EveryOperationCompletes : Prop :=
  (∀ (i : Instr) (s : State), ∃ t, exec i s = .next t) ∧ (∀ s : State, ∃ t, step s = .next t)

/-! ### RESET -/

/-- 70_reset_and_hazards.md R190: RESET, "with priority over every other operation". What it leaves in the other registers is
unspecified, so nothing is said of them. -/
def Obligations.ResetReturnsToIdle : Prop :=
  (∀ (ignored : BitVec 2) (s : State), ∃ t, exec (.reset ignored) s = .next t ∧
    t.PHASE = .idle ∧ t.busy = false ∧ t.done = false ∧ t.memReads = [] ∧
    (∀ p, t.mem.read p = s.mem.read p) ∧ SamePorts s t ∧
    s.memReadsOf (.reset ignored) = [] ∧ IgnoresMemory (.reset ignored) s ∧
    ∀ other : BitVec 2, exec (.reset other) s = .next t) ∧
  (∀ s : State, rstBit s.hin = true → ∃ t, step s = .next t ∧ s.memReads = [] ∧
    t.PHASE = .idle ∧ t.busy = false ∧ t.done = false) ∧
  ∀ s : State, (∃ ignored, s.operation = .reset ignored) ↔ rstBit s.hin = true

/-- 10_state.md R28: the state after RESET is IDLE, "therefore `busy` = 0 and `done` = 0", and nothing is read. -/
def Obligations.ResetStateIsIdle : Prop :=
  State.reset.PHASE = .idle ∧ State.reset.busy = false ∧ State.reset.done = false ∧ State.reset.memReads = []

/-! ### START -/

/-- 45_core_sequencer.md R141, from IDLE and from DONE, for every `msg_len`. -/
def Obligations.StartSha256BeginsAComputation : Prop :=
  (∀ s : State, s.operation = .startSha256 ↔ rstBit s.hin = false ∧ (s.PHASE = .idle ∨ s.PHASE = .done) ∧
    startBit s.hin = true ∧ variantBit s.hin = false) ∧
  ∀ s : State, s.PHASE = .idle ∨ s.PHASE = .done →
    ∃ t, exec .startSha256 s = .next t ∧
      FrameExcept [.VARIANT, .LEN, .H, .N, .J, .PHASE] s t ∧
      t.VARIANT = .sha256 ∧ t.LEN = s.msgLen ∧
      t.H.toList = [0x6a09e667#32, 0xbb67ae85#32, 0x3c6ef372#32, 0xa54ff53a#32,
        0x510e527f#32, 0x9b05688c#32, 0x1f83d9ab#32, 0x5be0cd19#32] ∧
      t.N = 0#56 ∧ t.J = 0#6 ∧ t.PHASE = .pad ∧ t.busy = true ∧ t.done = false ∧
      s.memReadsOf .startSha256 = [] ∧ IgnoresMemory .startSha256 s

/-- 45_core_sequencer.md R142: START_SHA224, and the two STARTs differ in nothing but `VARIANT` and `H`. -/
def Obligations.StartSha224BeginsAComputation : Prop :=
  (∀ s : State, s.operation = .startSha224 ↔ rstBit s.hin = false ∧ (s.PHASE = .idle ∨ s.PHASE = .done) ∧
    startBit s.hin = true ∧ variantBit s.hin = true) ∧
  ∀ s : State, s.PHASE = .idle ∨ s.PHASE = .done →
    (∃ t, exec .startSha224 s = .next t ∧
      FrameExcept [.VARIANT, .LEN, .H, .N, .J, .PHASE] s t ∧
      t.VARIANT = .sha224 ∧ t.LEN = s.msgLen ∧
      t.H.toList = [0xc1059ed8#32, 0x367cd507#32, 0x3070dd17#32, 0xf70e5939#32,
        0xffc00b31#32, 0x68581511#32, 0x64f98fa7#32, 0xbefa4fa4#32] ∧
      t.N = 0#56 ∧ t.J = 0#6 ∧ t.PHASE = .pad ∧ t.busy = true ∧ t.done = false ∧
      s.memReadsOf .startSha224 = [] ∧ IgnoresMemory .startSha224 s) ∧
    ∀ t u, exec .startSha256 s = .next t → exec .startSha224 s = .next u → FrameExcept [.VARIANT, .H] t u

/-- 45_core_sequencer.md R151: a START presented while the core is busy is ignored: the step is what it would be under NOP,
nothing is sampled, and only RESET ends a computation early. -/
def Obligations.StartWhileBusyIsIgnored : Prop :=
  ∀ s : State, s.busy = true →
    (∀ b : BitVec 1, exec .startSha256 s = exec (.nop b) s ∧ exec .startSha224 s = exec (.nop b) s) ∧
    (∃ t, exec .startSha256 s = .next t ∧ exec .startSha224 s = .next t ∧ exec (decodeS s.PHASE.bits) s = .next t) ∧
    (rstBit s.hin = false → step s = step { s with hin := 0b000#3 }) ∧
    (∀ t, rstBit s.hin = false → step s = .next t →
      t.LEN = s.LEN ∧ t.VARIANT = s.VARIANT ∧ t.PHASE ≠ .idle ∧
      ∀ l u, step { s with msgLen := l } = .next u → ∀ r, SameReg t u r)

/-- 45_core_sequencer.md R143: "the core performs the sequencer operation selected by `PHASE`". NOP adds no write of its
own. -/
def Obligations.NopPerformsTheSequencerOperation : Prop :=
  ∀ s : State, ∃ t, (∀ b : BitVec 1, exec (.nop b) s = .next t) ∧ exec (decodeS s.PHASE.bits) s = .next t ∧
    (rstBit s.hin = false → startBit s.hin = false → s.operation = decodeS s.PHASE.bits ∧ step s = .next t.endStep)

/-! ### Waiting -/

/-- 45_core_sequencer.md R144: IDLE writes nothing, in one step and in any number of steps without a START or RESET; "`PHASE
= IDLE` is reached only by RESET". -/
def Obligations.IdleWaits : Prop :=
  (∀ s : State, exec .idle s = .next s) ∧
  (∀ s : State, s.operation = .idle ↔ rstBit s.hin = false ∧ s.PHASE = .idle ∧ startBit s.hin = false) ∧
  (∀ (k : Nat) (s : State), s.PHASE = .idle → rstBit s.hin = false → startBit s.hin = false →
    s.noResetFor k → s.noStartFor k →
    ∃ t, run (k + 1) s = .next t ∧ (∀ r, SameReg s t r) ∧ t.busy = false ∧ t.done = false) ∧
  (∀ s t : State, step s = .next t → t.PHASE = .idle → rstBit s.hin = true ∨ s.PHASE = .idle)

/-- 45_core_sequencer.md R145: HOLD writes nothing, "so `digest_hex` and `digest_len` stay stable for as long as the host
needs to read them". -/
def Obligations.HoldKeepsTheDigest : Prop :=
  (∀ s : State, exec .hold s = .next s) ∧
  (∀ s : State, s.operation = .hold ↔ rstBit s.hin = false ∧ s.PHASE = .done ∧ startBit s.hin = false) ∧
  (∀ (k : Nat) (s : State), s.PHASE = .done → rstBit s.hin = false → startBit s.hin = false →
    s.noResetFor k → s.noStartFor k →
    ∃ t, run (k + 1) s = .next t ∧ (∀ r, SameReg s t r) ∧ t.busy = false ∧ t.done = true ∧
      t.digestHex = s.digestHex ∧ t.digestLen = s.digestLen ∧ t.digestString = s.digestString) ∧
  (∀ s t : State, s.PHASE = .done → step s = .next t → t.PHASE ≠ .done →
    rstBit s.hin = true ∨ startBit s.hin = true)

/-! ### PAD -/

/-- 41_padder.md R104, R102: what PAD writes, byte by byte, what it leaves, and what it reads. -/
def Obligations.PadFillsTheBlock : Prop :=
  (∀ s : State, s.operation = .pad ↔ rstBit s.hin = false ∧ s.PHASE = .pad) ∧
  ∀ s : State, ∃ t, exec .pad s = .next t ∧ FrameExcept [.BLK, .PHASE] s t ∧
    t.PHASE = .sched ∧ t.busy = true ∧
    (∀ i, (h : i < 64) →
      (∀ b, 64 * s.N.toNat + i < s.LEN.toNat → s.mem.read (64 * s.N.toNat + i) = some b → t.BLK[i] = b) ∧
      (64 * s.N.toNat + i = s.LEN.toNat → t.BLK[i] = 0x80#8) ∧
      (s.LEN.toNat < 64 * s.N.toNat + i → 64 * s.N.toNat + i + 8 < PLEN s.LEN.toNat → t.BLK[i] = 0x00#8) ∧
      (PLEN s.LEN.toNat ≤ 64 * s.N.toNat + i + 8 → 64 * s.N.toNat + i < PLEN s.LEN.toNat →
        t.BLK[i].toNat = 8 * s.LEN.toNat / 256 ^ (PLEN s.LEN.toNat - 1 - (64 * s.N.toNat + i)) % 256)) ∧
    (s.memReadsOf .pad).Pairwise (· < ·) ∧
    (∀ p, p ∈ s.memReadsOf .pad ↔ p < s.LEN.toNat ∧ p / 64 = s.N.toNat) ∧
    (s.N.toNat < NBLK s.LEN.toNat → ∀ i, i < 64 → 64 * s.N.toNat + i < PLEN s.LEN.toNat ∧ 64 * s.N.toNat + i < 2 ^ 62)

/-- PAD of block `n` writes bytes 64·n to 64·n + 63 of `pad(m)`, the Padded Buffer of the message in memory (41_padder.md
R105; 10_state.md R14). -/
def Obligations.PadBlockIsTheMessagePadded : Prop :=
  ∀ (s : State) (m : List Byte), m.length = s.LEN.toNat → s.holdsMessage m → s.N.toNat < NBLK s.LEN.toNat →
    ∃ t, exec .pad s = .next t ∧ ∀ i, (h : i < 64) → (padMessage m)[64 * s.N.toNat + i]? = some t.BLK[i]

/-- 41_padder.md R100: the layout of `pad(m)`: the message, 0x80, the minimum number of zero bytes, the length big-endian. -/
def Obligations.PaddedMessageLayout : Prop :=
  ∀ m : List Byte, m.length < 2 ^ 61 →
    ∃ k : Nat, (∃ lenField : List Byte, padMessage m = m ++ [0x80#8] ++ List.replicate k 0x00#8 ++ lenField ∧
        lenField.length = 8 ∧ lenField.foldl (fun acc b => 256 * acc + b.toNat) 0 = 8 * m.length) ∧
      (padMessage m).length % 64 = 0 ∧ ∀ k', (m.length + 1 + k' + 8) % 64 = 0 → k ≤ k'

/-- 41_padder.md R101: the lengths, for every L. -/
def Obligations.PaddingLengths : Prop :=
  ∀ L : Nat,
    (L + 1 + padZeros L + 8) % 64 = 0 ∧ padZeros L ≤ 63 ∧
    (∀ k, (L + 1 + k + 8) % 64 = 0 → padZeros L ≤ k) ∧
    PLEN L = L + 1 + padZeros L + 8 ∧ PLEN L = 64 * ((L + 8) / 64 + 1) ∧
    NBLK L = PLEN L / 64 ∧ NBLK L = (L + 8) / 64 + 1 ∧
    (8 * L + 8 + 8 * padZeros L + 64) % 512 = 0 ∧
    64 ≤ PLEN L ∧ PLEN L % 64 = 0 ∧ L + 9 ≤ PLEN L ∧ PLEN L ≤ L + 72 ∧ 1 ≤ NBLK L ∧
    (L % 64 ≤ 55 → padZeros L = 55 - L % 64 ∧ NBLK L = L / 64 + 1) ∧
    (56 ≤ L % 64 → padZeros L = 119 - L % 64 ∧ NBLK L = L / 64 + 2) ∧
    (∀ m : List Byte, m.length = L → (padMessage m).length = PLEN L)

/-- 41_padder.md R103: `bit_length` is exact for every 61-bit length. -/
def Obligations.BitLengthNeverOverflows : Prop :=
  ∀ l : BitVec 61, (bitLength l).toNat = 8 * l.toNat ∧ (bitLength l).toNat ≤ 2 ^ 64 - 8 ∧
    (bitLength l).extractLsb' 0 3 = 0b000#3

/-- 41_padder.md R106: the outputs of `sha256_padder`, where it is used (`blk_idx < NBLK(len)`). -/
def Obligations.PadderOutputs : Prop :=
  ∀ (len : BitVec 61) (n : BitVec 56) (m : Vector Byte 64), n.toNat < NBLK len.toNat →
    (∀ i, (h : i < 64) →
      (sha256Padder len n m).blk[i] = padByte len m[i] (64 * n.toNat + i) ∧
      ((sha256Padder len n m).rd[i] = true ↔ 64 * n.toNat + i < len.toNat)) ∧
    ((sha256Padder len n m).last = true ↔ 64 * (n.toNat + 1) = PLEN len.toNat) ∧
    ((sha256Padder len n m).last = true ↔ n.toNat + 1 = NBLK len.toNat)

/-! ### SCHED -/

/-- 42_block_scheduler.md R113 with R111 (words 0 to 15, big-endian) and R112 (the recurrence, modulo 2^32). -/
def Obligations.SchedLoadsTheSchedule : Prop :=
  (∀ s : State, s.operation = .sched ↔ rstBit s.hin = false ∧ s.PHASE = .sched) ∧
  ∀ s : State, ∃ t, exec .sched s = .next t ∧ FrameExcept [.W, .PHASE] s t ∧
    t.PHASE = .winit ∧ t.busy = true ∧ t.W = expand s.BLK ∧
    (∀ i, (h : i < 16) → t.W[i].toNat = s.BLK[4 * i].toNat * 2 ^ 24 + s.BLK[4 * i + 1].toNat * 2 ^ 16 +
      s.BLK[4 * i + 2].toNat * 2 ^ 8 + s.BLK[4 * i + 3].toNat) ∧
    (∀ i, (h : 16 ≤ i ∧ i < 64) →
      t.W[i] = sigma1 t.W[i - 2] + t.W[i - 7] + sigma0 t.W[i - 15] + t.W[i - 16]) ∧
    s.memReadsOf .sched = [] ∧ IgnoresMemory .sched s

/-- 42_block_scheduler.md R111, R112: 64 words are `expand(blk)` exactly when the first 16 are the block's big-endian words and
the other 48 satisfy the recurrence; "the 48 equations have exactly one solution". -/
def Obligations.ScheduleIsTheOnlySolution : Prop :=
  ∀ (blk : Vector Byte 64) (w : Vector Word 64),
    ((∀ i, (h : i < 16) → w[i].toNat = blk[4 * i].toNat * 2 ^ 24 + blk[4 * i + 1].toNat * 2 ^ 16 +
        blk[4 * i + 2].toNat * 2 ^ 8 + blk[4 * i + 3].toNat) ∧
      (∀ i, (h : 16 ≤ i ∧ i < 64) → w[i] = add32 [sigma1 w[i - 2], w[i - 7], sigma0 w[i - 15], w[i - 16]])) ↔
    w = expand blk

/-! ### WINIT and ROUND -/

/-- 43_compressor_round.md R121: `a..h <- H[0..7]`, `J <- 0`, `PHASE <- ROUND`. -/
def Obligations.WinitLoadsTheWorkingRegisters : Prop :=
  (∀ s : State, s.operation = .winit ↔ rstBit s.hin = false ∧ s.PHASE = .winit) ∧
  ∀ s : State, ∃ t, exec .winit s = .next t ∧ FrameExcept [.WK, .J, .PHASE] s t ∧
    t.WK.a = s.H[0] ∧ t.WK.b = s.H[1] ∧ t.WK.c = s.H[2] ∧ t.WK.d = s.H[3] ∧
    t.WK.e = s.H[4] ∧ t.WK.f = s.H[5] ∧ t.WK.g = s.H[6] ∧ t.WK.h = s.H[7] ∧
    t.J = 0#6 ∧ t.PHASE = .round ∧ t.busy = true ∧
    s.memReadsOf .winit = [] ∧ IgnoresMemory .winit s

/-- 43_compressor_round.md R120, R122: one round, all additions modulo 2^32, every right-hand side a value from before the
round; `J` wraps after 63 and the phase becomes FOLD. -/
def Obligations.RoundTransformsTheWorkingRegisters : Prop :=
  (∀ s : State, s.operation = .round ↔ rstBit s.hin = false ∧ s.PHASE = .round) ∧
  ∀ s : State, ∃ t, exec .round s = .next t ∧ FrameExcept [.WK, .J, .PHASE] s t ∧
    (let T1 : Word := s.WK.h + Sigma1 s.WK.e + Ch s.WK.e s.WK.f s.WK.g + K[s.J.toNat]'s.J.isLt + s.W[s.J.toNat]'s.J.isLt
     let T2 : Word := Sigma0 s.WK.a + Maj s.WK.a s.WK.b s.WK.c
     t.WK.a = T1 + T2 ∧ t.WK.b = s.WK.a ∧ t.WK.c = s.WK.b ∧ t.WK.d = s.WK.c ∧
     t.WK.e = s.WK.d + T1 ∧ t.WK.f = s.WK.e ∧ t.WK.g = s.WK.f ∧ t.WK.h = s.WK.g) ∧
    t.J.toNat = (s.J.toNat + 1) % 64 ∧
    (s.J.toNat = 63 → t.PHASE = .fold ∧ t.J = 0#6) ∧ (s.J.toNat ≠ 63 → t.PHASE = s.PHASE) ∧
    s.memReadsOf .round = [] ∧ IgnoresMemory .round s

/-- 43_compressor_round.md R123, R124: from WINIT, the 64 ROUND steps of a block compute `compress(H, W)` with the `H` and `W`
current at WINIT, and change neither. -/
def Obligations.SixtyFourRoundsCompress : Prop :=
  ∀ s : State, s.PHASE = .winit → rstBit s.hin = false → s.noResetFor 64 →
    ∃ t, run 65 s = .next t ∧ t.PHASE = .fold ∧ t.J = 0#6 ∧ t.WK = compress (Work.ofVector s.H) s.W ∧
      t.H = s.H ∧ t.W = s.W ∧ t.BLK = s.BLK ∧ t.N = s.N ∧ t.VARIANT = s.VARIANT ∧ t.LEN = s.LEN ∧
      t.DIGEST_HEX = s.DIGEST_HEX ∧
      operationTrace 65 s =
        (.winit, s.N.toNat, s.J.toNat) :: (List.range 64).map fun j => (.round, s.N.toNat, j)

/-! ### FOLD -/

/-- 45_core_sequencer.md R146: the additive fold of all eight words, and the test that ends the block loop. -/
def Obligations.FoldAddsAndAdvances : Prop :=
  (∀ s : State, s.operation = .fold ↔ rstBit s.hin = false ∧ s.PHASE = .fold) ∧
  ∀ s : State, ∃ t, exec .fold s = .next t ∧
    t.H.toList = [s.H[0] + s.WK.a, s.H[1] + s.WK.b, s.H[2] + s.WK.c, s.H[3] + s.WK.d,
      s.H[4] + s.WK.e, s.H[5] + s.WK.f, s.H[6] + s.WK.g, s.H[7] + s.WK.h] ∧
    (s.N.toNat + 1 = NBLK s.LEN.toNat → FrameExcept [.H, .PHASE] s t ∧ t.PHASE = .format) ∧
    (s.N.toNat + 1 ≠ NBLK s.LEN.toNat → FrameExcept [.H, .N, .PHASE] s t ∧ t.PHASE = .pad ∧
      (s.N.toNat + 1 < 2 ^ 56 → t.N.toNat = s.N.toNat + 1)) ∧
    t.busy = true ∧
    (s.N.toNat + 1 = NBLK s.LEN.toNat ↔ 64 * (s.N.toNat + 1) = PLEN s.LEN.toNat) ∧
    (s.N.toNat + 1 = NBLK s.LEN.toNat ↔ padderLast s.LEN s.N = true) ∧
    (s.N.toNat < NBLK s.LEN.toNat → ∀ m, (s.N.toNat + 1 = NBLK s.LEN.toNat ↔ (sha256Padder s.LEN s.N m).last = true)) ∧
    s.memReadsOf .fold = [] ∧ IgnoresMemory .fold s

/-! ### FORMAT and the digest -/

/-- 44_digest_formatter.md R133: every byte of `DIGEST_HEX`, digit `d` of word `w` being bits [31 − 4d : 28 − 4d]. -/
def Obligations.FormatRendersTheHashState : Prop :=
  (∀ s : State, s.operation = .format ↔ rstBit s.hin = false ∧ s.PHASE = .format) ∧
  ∀ s : State, ∃ t, exec .format s = .next t ∧ FrameExcept [.DIGEST_HEX, .PHASE] s t ∧
    t.PHASE = .done ∧ t.busy = false ∧ t.done = true ∧
    (∀ w d, (hw : w < 8) → (hd : d < 8) →
      (w < NW s.VARIANT →
        t.DIGEST_HEX[8 * w + d] = hexchar (BitVec.ofNat 4 (s.H[w].toNat / 2 ^ (28 - 4 * d) % 16))) ∧
      (NW s.VARIANT ≤ w → t.DIGEST_HEX[8 * w + d] = 0x00#8)) ∧
    s.memReadsOf .format = [] ∧ IgnoresMemory .format s

/-- 44_digest_formatter.md R131: `hexchar` is the ASCII code of the lowercase digit, and nothing else. -/
def Obligations.HexcharIsLowercaseAscii : Prop :=
  ∀ v : BitVec 4,
    (v.toNat ≤ 9 → (hexchar v).toNat = 0x30 + v.toNat) ∧
    (10 ≤ v.toNat → (hexchar v).toNat = 0x61 + (v.toNat - 10) ∧ (hexchar v).toNat = 0x57 + v.toNat) ∧
    ((0x30 ≤ (hexchar v).toNat ∧ (hexchar v).toNat ≤ 0x39) ∨ (0x61 ≤ (hexchar v).toNat ∧ (hexchar v).toNat ≤ 0x66)) ∧
    ∀ u, hexchar u = hexchar v → u = v

/-- 44_digest_formatter.md R134: for SHA-224 the last eight bytes are 0x00 and no function of `H[7]` reaches the buffer,
though FOLD computes `H[7]` as for SHA-256. -/
def Obligations.Sha224DropsTheEighthWord : Prop :=
  ∀ s u : State, s.VARIANT = .sha224 → u.VARIANT = .sha224 → (∀ i, (h : i < 7) → s.H[i] = u.H[i]) →
    ∃ t v, exec .format s = .next t ∧ exec .format u = .next v ∧ t.DIGEST_HEX = v.DIGEST_HEX ∧
      (∀ i, (h : 56 ≤ i ∧ i < 64) → t.DIGEST_HEX[i] = 0x00#8) ∧ t.digestLen.toNat = 56

/-- 44_digest_formatter.md R135 and the output alphabet: in every state the invariant admits, a digest that is shown is a
string of 64 or 56 lowercase hexadecimal characters, whatever was hashed. -/
def Obligations.ShownDigestIsWellFormed : Prop :=
  ∀ (s : State) (str : List Byte), s.Inv → s.digestString = some str →
    s.digestLen.toNat = 8 * NW s.VARIANT ∧ str.length = s.digestLen.toNat ∧
    (s.VARIANT = .sha256 → str.length = 64) ∧ (s.VARIANT = .sha224 → str.length = 56) ∧
    str = formatString s.H s.VARIANT ∧
    ∀ c ∈ str, (0x30 ≤ c.toNat ∧ c.toNat ≤ 0x39) ∨ (0x61 ≤ c.toNat ∧ c.toNat ≤ 0x66)

/-- The digest string loses nothing of the words it renders (44_digest_formatter.md R130, R132: every word as exactly eight
digits, leading zeros kept). -/
def Obligations.DigestStringDeterminesTheWords : Prop :=
  ∀ (v : Variant) (g h : Vector Word 8), formatString g v = formatString h v →
    ∀ i, (hi : i < 8) → i < NW v → g[i] = h[i]

/-! ### Word functions -/

/-- 40_word_functions.md R80: addition modulo 2^32; order, grouping and intermediate reduction do not matter. -/
def Obligations.Add32IsModularAddition : Prop :=
  (∀ xs : List Word, (add32 xs).toNat = (xs.map BitVec.toNat).sum % 2 ^ 32) ∧
  (∀ xs ys : List Word, add32 (xs ++ ys) = add32 [add32 xs, add32 ys]) ∧
  (∀ xs ys : List Word, xs.Perm ys → add32 xs = add32 ys) ∧
  (∀ x y : Word, add32 [x, y] = x + y) ∧
  add32 [0xffffffff#32, 0x00000001#32] = 0#32 ∧ add32 [0x80000000#32, 0x80000000#32] = 0#32 ∧
  add32 [0xffffffff#32, 0xffffffff#32] = 0xfffffffe#32 ∧
  add32 [0xffffffff#32, 0xffffffff#32, 0xffffffff#32, 0xffffffff#32, 0xffffffff#32] = 0xfffffffb#32 ∧
  add32 [0x6a09e667#32, 0x5d6aebcd#32] = 0xc774d234#32

/-- 40_word_functions.md R81: "bit `i` of the result is bit `(i + n) mod 32` of `x`"; no bit is lost. -/
def Obligations.RotrMovesEveryBit : Prop :=
  ∀ (x : Word) (n : Nat), 1 ≤ n → n ≤ 31 →
    (∀ i, i < 32 → (rotr x n).getLsbD i = x.getLsbD ((i + n) % 32)) ∧
    (rotr x n).toNat = x.toNat % 2 ^ n * 2 ^ (32 - n) + x.toNat / 2 ^ n ∧
    rotr (rotr x n) (32 - n) = x ∧
    rotr 0#32 n = 0#32 ∧ rotr 0xffffffff#32 n = 0xffffffff#32

/-- 40_word_functions.md R82: a logical shift, `x div 2^n`; the low bits are lost and zeros enter at the top. -/
def Obligations.ShrIsALogicalShift : Prop :=
  ∀ (x : Word) (n : Nat), 1 ≤ n → n ≤ 31 →
    (shr x n).toNat = x.toNat / 2 ^ n ∧
    (∀ i, i < 32 → (shr x n).getLsbD i = if i + n < 32 then x.getLsbD (i + n) else false)

/-- 40_word_functions.md R83, R84: `Ch` chooses and `Maj` takes the majority, bit by bit. -/
def Obligations.ChoiceAndMajority : Prop :=
  ∀ x y z : Word,
    (∀ i, i < 32 → (Ch x y z).getLsbD i = if x.getLsbD i then y.getLsbD i else z.getLsbD i) ∧
    (∀ i, i < 32 → ((Maj x y z).getLsbD i = true ↔
      2 ≤ (x.getLsbD i).toNat + (y.getLsbD i).toNat + (z.getLsbD i).toNat)) ∧
    Ch x y z = (x &&& y) ||| (~~~x &&& z) ∧
    Ch 0#32 y z = z ∧ Ch 0xffffffff#32 y z = y ∧ Ch x y y = y ∧
    Maj x y z = Maj y x z ∧ Maj x y z = Maj x z y ∧
    Maj x x z = x ∧ Maj 0#32 y z = y &&& z ∧ Maj 0xffffffff#32 y z = y ||| z

/-- 40_word_functions.md R85 to R88, bit by bit: three rotations for `Sigma0` and `Sigma1`; for `sigma0` and `sigma1` "The
third term is a shift, not a rotation". -/
def Obligations.SigmaFunctionsByBit : Prop :=
  ∀ (x : Word) (i : Nat), i < 32 →
    (Sigma0 x).getLsbD i = ((x.getLsbD ((i + 2) % 32) ^^ x.getLsbD ((i + 13) % 32)) ^^ x.getLsbD ((i + 22) % 32)) ∧
    (Sigma1 x).getLsbD i = ((x.getLsbD ((i + 6) % 32) ^^ x.getLsbD ((i + 11) % 32)) ^^ x.getLsbD ((i + 25) % 32)) ∧
    (sigma0 x).getLsbD i = ((x.getLsbD ((i + 7) % 32) ^^ x.getLsbD ((i + 18) % 32)) ^^ x.getLsbD (i + 3)) ∧
    (sigma1 x).getLsbD i = ((x.getLsbD ((i + 17) % 32) ^^ x.getLsbD ((i + 19) % 32)) ^^ x.getLsbD (i + 10))

/-- The constant tables are what 10_state.md R21 to R23 say they are: the leading fractional bits of the cube roots of the
first 64 primes (`K`), of the square roots of the first 8 primes (`IV256`), and the second 32 fractional bits of the square
roots of the 9th to 16th primes (`IV224`). -/
def Obligations.ConstantsAreRootsOfPrimes : Prop :=
  let primes := (List.range 312).filter fun p => decide (2 ≤ p) && (List.range p).all fun d => decide (d < 2) || p % d != 0
  primes.length = 64 ∧
  (∀ j : Fin 64, ∃ n : Fin 8,
    (n * 2 ^ 32 + K[j].toNat) ^ 3 ≤ primes.getD j 0 * 2 ^ 96 ∧
    primes.getD j 0 * 2 ^ 96 < (n * 2 ^ 32 + K[j].toNat + 1) ^ 3) ∧
  (∀ i : Fin 8, ∃ n : Fin 8,
    (n * 2 ^ 32 + IV256[i].toNat) ^ 2 ≤ primes.getD i 0 * 2 ^ 64 ∧
    primes.getD i 0 * 2 ^ 64 < (n * 2 ^ 32 + IV256[i].toNat + 1) ^ 2) ∧
  (∀ i : Fin 8, ∃ n hi : Nat, n < 8 ∧ hi < 2 ^ 32 ∧
    ((n * 2 ^ 32 + hi) * 2 ^ 32 + IV224[i].toNat) ^ 2 ≤ primes.getD (8 + i) 0 * 2 ^ 128 ∧
    primes.getD (8 + i) 0 * 2 ^ 128 < ((n * 2 ^ 32 + hi) * 2 ^ 32 + IV224[i].toNat + 1) ^ 2)

/-! ### Flags -/

/-- 10_state.md R24: the two flags, what sets them and what clears them. -/
def Obligations.FlagsFollowThePhase : Prop :=
  (∀ s : State,
    (s.busy = true ↔ s.PHASE = .pad ∨ s.PHASE = .sched ∨ s.PHASE = .winit ∨ s.PHASE = .round ∨ s.PHASE = .fold ∨
      s.PHASE = .format) ∧
    (s.done = true ↔ s.PHASE = .done) ∧ ¬ (s.busy = true ∧ s.done = true) ∧
    (s.busy = false ∧ s.done = false ↔ s.PHASE = .idle)) ∧
  (∀ s t : State, step s = .next t →
    (t.busy = true → s.busy = false → ∃ v, s.acceptsStart v) ∧
    (t.done = true → s.done = false → s.operation = .format) ∧
    (∀ v, s.acceptsStart v → t.busy = true ∧ t.done = false) ∧
    (s.operation = .format → t.busy = false ∧ t.done = true) ∧
    (rstBit s.hin = true → t.busy = false ∧ t.done = false))

/-- 30_encoding.md R66: what each value of the variant tag selects. -/
def Obligations.VariantSelectsTheFunction : Prop :=
  Variant.ofBit 0b0#1 = .sha256 ∧ Variant.ofBit 0b1#1 = .sha224 ∧ (∀ v : Variant, Variant.ofBit v.bit = v) ∧
  (∀ v : Variant, v = .sha256 ∨ v = .sha224) ∧
  IV .sha256 = IV256 ∧ IV .sha224 = IV224 ∧ IV256 ≠ IV224 ∧ NW .sha256 = 8 ∧ NW .sha224 = 7 ∧
  (∀ (h : Vector Word 8), (formatString h .sha256).length = 64 ∧ (formatString h .sha224).length = 56)

/-! ### Sequencing -/

/-- 45_core_sequencer.md R148: the next-position table, the complete control-transfer behaviour of the machine. Under the
invariant of Safety.lean FOLD finds `J` = 0, and its case `N + 1 > NBLK(LEN)` "is unreachable". -/
def Obligations.NextPositionTable : Prop :=
  ∀ s t : State, step s = .next t →
    (rstBit s.hin = true → t.PHASE = .idle) ∧
    (rstBit s.hin = false →
      (s.PHASE = .idle ∨ s.PHASE = .done → startBit s.hin = true → t.PHASE = .pad ∧ t.N = 0#56 ∧ t.J = 0#6) ∧
      (s.PHASE = .idle → startBit s.hin = false → t.PHASE = .idle ∧ t.N = s.N ∧ t.J = s.J) ∧
      (s.PHASE = .done → startBit s.hin = false → t.PHASE = .done ∧ t.N = s.N ∧ t.J = s.J) ∧
      (s.PHASE = .pad → t.PHASE = .sched ∧ t.N = s.N ∧ t.J = s.J) ∧
      (s.PHASE = .sched → t.PHASE = .winit ∧ t.N = s.N ∧ t.J = s.J) ∧
      (s.PHASE = .winit → t.PHASE = .round ∧ t.N = s.N ∧ t.J = 0#6) ∧
      (s.PHASE = .round → s.J.toNat < 63 → t.PHASE = .round ∧ t.N = s.N ∧ t.J.toNat = s.J.toNat + 1) ∧
      (s.PHASE = .round → s.J.toNat = 63 → t.PHASE = .fold ∧ t.N = s.N ∧ t.J = 0#6) ∧
      (s.PHASE = .fold → s.N.toNat + 1 < NBLK s.LEN.toNat →
        t.PHASE = .pad ∧ t.N.toNat = s.N.toNat + 1 ∧ t.J = s.J) ∧
      (s.PHASE = .fold → s.N.toNat + 1 = NBLK s.LEN.toNat → t.PHASE = .format ∧ t.N = s.N ∧ t.J = s.J) ∧
      (s.PHASE = .format → t.PHASE = .done ∧ t.N = s.N ∧ t.J = s.J)) ∧
    (s.Inv → s.PHASE = .fold → s.J = 0#6 ∧ s.N.toNat + 1 ≤ NBLK s.LEN.toNat)

/-- 45_core_sequencer.md R140: the operations of a computation, in order, with the sequencer position of each: for each block
in order PAD, SCHED, WINIT, 64 ROUNDs, FOLD, and after the last block FORMAT. -/
def Obligations.ComputationOperationSequence : Prop :=
  ∀ (s : State) (v : Variant), s.acceptsStart v → s.noResetFor (68 * NBLK s.msgLen.toNat + 1) →
    ∃ t, step s = .next t ∧
      operationTrace (68 * NBLK s.msgLen.toNat + 1) t =
        (List.range (NBLK s.msgLen.toNat)).flatMap blockOperations ++ [(.format, NBLK s.msgLen.toNat - 1, 0)]

/-- 45_core_sequencer.md R150: the length of a computation in steps; it always terminates, whatever the message memory holds
and whatever the host stores meanwhile. -/
def Obligations.ComputationTakesItsSteps : Prop :=
  (∀ L, (L ≤ 55 → 68 * NBLK L + 2 = 70) ∧ (56 ≤ L → L ≤ 119 → 68 * NBLK L + 2 = 138)) ∧
  ∀ (s : State) (v : Variant), s.acceptsStart v → s.noResetFor (68 * NBLK s.msgLen.toNat + 1) →
    (∃ t, run (68 * NBLK s.msgLen.toNat + 2) s = .next t ∧ t.PHASE = .done ∧ t.done = true) ∧
    (∀ k, 1 ≤ k → k ≤ 68 * NBLK s.msgLen.toNat + 1 → ∃ t, run k s = .next t ∧ t.busy = true ∧ t.done = false)

/-- 70_reset_and_hazards.md R194: whatever the message memory holds and whatever the host stores into it during the computation,
"the core still terminates normally and produces a well-formed digest string of the right length". -/
def Obligations.EveryComputationShowsAWellFormedDigest : Prop :=
  ∀ (s : State) (v : Variant), s.acceptsStart v → s.noResetFor (68 * NBLK s.msgLen.toNat + 1) →
    ∃ t str, run (68 * NBLK s.msgLen.toNat + 2) s = .next t ∧ t.digestString = some str ∧
      (v = .sha256 → str.length = 64) ∧ (v = .sha224 → str.length = 56) ∧
      ∀ c ∈ str, (0x30 ≤ c.toNat ∧ c.toNat ≤ 0x39) ∨ (0x61 ≤ c.toNat ∧ c.toNat ≤ 0x66)

/-! ### Memory -/

/-- 20_memory.md R42: the only operation that accesses memory is PAD; it reads exactly the offsets of its block below `LEN`,
and its result depends on no other offset. -/
def Obligations.OnlyPadReadsMemory : Prop :=
  (∀ s : State, ∃ reads, s.memReadsOf .pad = reads ∧ reads.length = min 64 (s.LEN.toNat - 64 * s.N.toNat) ∧
    (∀ p, p ∈ reads ↔ p < s.LEN.toNat ∧ ∃ i, i < 64 ∧ p = 64 * s.N.toNat + i) ∧
    ∀ m, (∀ p ∈ reads, Memory.read m p = s.mem.read p) → ∀ t, exec .pad s = .next t →
      exec .pad { s with mem := m } = .next { t with mem := m }) ∧
  (∀ (s : State) (i : Instr), i = .startSha256 ∨ i = .startSha224 → s.busy = false → IgnoresMemory i s) ∧
  (∀ (s : State) (ignored : BitVec 2), IgnoresMemory (.reset ignored) s) ∧
  (∀ (s : State) (ignored : BitVec 1), s.PHASE ≠ .pad → IgnoresMemory (.nop ignored) s) ∧
  (∀ (s : State) (i : Instr), i = .idle ∨ i = .sched ∨ i = .winit ∨ i = .round ∨ i = .fold ∨ i = .format ∨ i = .hold →
    IgnoresMemory i s) ∧
  (∀ (s : State) (i : Instr), i ≠ .pad → s.memReadsOf i = [])

/-- 20_memory.md R43: the core never writes memory: an operation leaves every byte as it was, and a step changes only what
the host stores. -/
def Obligations.TheCoreNeverWritesMemory : Prop :=
  (∀ (i : Instr) (s t : State), exec i s = .next t → ∀ p, t.mem.read p = s.mem.read p) ∧
  (∀ (s t : State) (p : Nat), step s = .next t →
    (∀ d ∈ s.host.head?, ∀ st ∈ d.stores, st.offset.toNat ≠ p) → t.mem.read p = s.mem.read p)

/-- 20_memory.md R50, R52: during a computation every offset below `LEN` is read exactly once, in increasing order, and no
other offset is read. -/
def Obligations.EveryMessageByteIsReadOnceInOrder : Prop :=
  ∀ (s : State) (v : Variant), s.acceptsStart v → s.noResetFor (68 * NBLK s.msgLen.toNat + 1) →
    readTrace (68 * NBLK s.msgLen.toNat + 2) s = List.range s.msgLen.toNat

/-- The host's stores keep the memory canonical, and a read after a store gives the byte stored there and leaves every other
offset alone (20_memory.md R40, R41; the representation is the model's own). -/
def Obligations.MemoryIsCanonicalAndReadsBack : Prop :=
  ∀ (m : Memory) (p : Nat) (b : Byte), m.wf → p < addressSpace →
    (m.write p b).wf ∧ (m.write p b).read p = some b ∧ (∀ q, q ≠ p → (m.write p b).read q = m.read q) ∧
    ∀ m' : Memory, m'.wf → (∀ q, m'.read q = (m.write p b).read q) → m' = m.write p b

/-! ### The machine as a whole -/

/-- The invariant of Safety.lean holds after RESET (10_state.md R28). -/
def Obligations.InvariantHoldsAtReset : Prop :=
  State.reset.Inv ∧ ∀ (s t : State) (ignored : BitVec 2), s.mem.wf → exec (.reset ignored) s = .next t → t.Inv

/-- Every step keeps the invariant, whatever the host presents and stores (10_state.md R14, R16, R17; 43_compressor_round.md
R123, R124; 45_core_sequencer.md R148). -/
def Obligations.EveryStepKeepsTheInvariant : Prop :=
  ∀ s t : State, s.Inv → step s = .next t → t.Inv

/-- 45_core_sequencer.md R152, the end-to-end statement, with the reference function of R153: from ANY state that accepts a
START, if the message is in memory and stays there and `rst` stays 0, the computation ends with the digest of the message,
and keeps it until a START or RESET. -/
def Obligations.EndToEndDigestIsTheReference : Prop :=
  ∀ (s : State) (v : Variant) (m : List Byte),
    s.acceptsStart v → m.length = s.msgLen.toNat →
    s.noResetFor (68 * NBLK m.length + 1) → s.holdsMessageFor (68 * NBLK m.length + 1) m →
    ∃ t, run (68 * NBLK m.length + 2) s = .next t ∧ t.done = true ∧ t.digestLen.toNat = 8 * NW v ∧
      t.digestString = some (SHA v m) ∧
      ∀ k, rstBit t.hin = false → startBit t.hin = false → t.noResetFor k → t.noStartFor k →
        ∃ u, run (k + 1) t = .next u ∧ u.done = true ∧ u.digestLen = t.digestLen ∧ u.digestString = some (SHA v m)

/-- 10_state.md R32: an accepted START reinitialises everything that can influence the next digest. Two machines with any
register contents whatever that accept the same START, with the same memory and the same host, show the same thing at every
later step, whatever the host does. -/
def Obligations.NothingIsLeftOverFromEarlierComputations : Prop :=
  ∀ (s t : State) (v w : Variant), s.acceptsStart v → t.acceptsStart w → SamePorts s t → t.mem = s.mem →
    ∀ k : Nat, ∃ s' t', run (k + 1) s = .next s' ∧ run (k + 1) t = .next t' ∧
      s'.busy = t'.busy ∧ s'.done = t'.done ∧ (s'.done = true → s'.digestLen = t'.digestLen) ∧
      s'.digestString = t'.digestString ∧ s'.operation = t'.operation ∧ s'.memReads = t'.memReads
end

