-- ==== Sys2Proof/Laws/State.lean ====
section
/-! SUPPORT. The small lemmas of the state's updates: one per field per update, so that no later proof unfolds one. -/

namespace Sys2Proof

@[simp] theorem tabulate_getElem {α : Type} (n : Nat) (f : Nat → α) (i : Nat) (h : i < n) : (tabulate n f)[i] = f i := by
  simp [tabulate]

@[simp] theorem tabulate_getD {α : Type} (n : Nat) (f : Nat → α) (i : Nat) (h : i < n) (x : α) :
    (tabulate n f).getD i x = f i := by
  simp [Vector.getD, h]

theorem vector_getD {α : Type} {n : Nat} (v : Vector α n) (i : Nat) (h : i < n) (x : α) : v.getD i x = v[i] := by
  simp [Vector.getD, h]

theorem tabulate_congr {α : Type} {n : Nat} {f g : Nat → α} (h : ∀ i, i < n → f i = g i) : tabulate n f = tabulate n g := by
  ext i hi
  simp [h i hi]

end Sys2Proof

namespace Sys2Proof.Machine

/-! ### setPHASE -/

@[simp] theorem State.setPHASE_PHASE (s : State) (x : Phase) : (s.setPHASE x).PHASE = x := rfl
@[simp] theorem State.setPHASE_N (s : State) (x : Phase) : (s.setPHASE x).N = s.N := rfl
@[simp] theorem State.setPHASE_J (s : State) (x : Phase) : (s.setPHASE x).J = s.J := rfl
@[simp] theorem State.setPHASE_VARIANT (s : State) (x : Phase) : (s.setPHASE x).VARIANT = s.VARIANT := rfl
@[simp] theorem State.setPHASE_LEN (s : State) (x : Phase) : (s.setPHASE x).LEN = s.LEN := rfl
@[simp] theorem State.setPHASE_H (s : State) (x : Phase) : (s.setPHASE x).H = s.H := rfl
@[simp] theorem State.setPHASE_WK (s : State) (x : Phase) : (s.setPHASE x).WK = s.WK := rfl
@[simp] theorem State.setPHASE_W (s : State) (x : Phase) : (s.setPHASE x).W = s.W := rfl
@[simp] theorem State.setPHASE_BLK (s : State) (x : Phase) : (s.setPHASE x).BLK = s.BLK := rfl
@[simp] theorem State.setPHASE_DIGEST_HEX (s : State) (x : Phase) : (s.setPHASE x).DIGEST_HEX = s.DIGEST_HEX := rfl
@[simp] theorem State.setPHASE_hin (s : State) (x : Phase) : (s.setPHASE x).hin = s.hin := rfl
@[simp] theorem State.setPHASE_msgLen (s : State) (x : Phase) : (s.setPHASE x).msgLen = s.msgLen := rfl
@[simp] theorem State.setPHASE_mem (s : State) (x : Phase) : (s.setPHASE x).mem = s.mem := rfl
@[simp] theorem State.setPHASE_host (s : State) (x : Phase) : (s.setPHASE x).host = s.host := rfl
@[simp] theorem State.setPHASE_draw (s : State) (x : Phase) : (s.setPHASE x).draw = s.draw := rfl

/-! ### setN -/

@[simp] theorem State.setN_PHASE (s : State) (x : BitVec 56) : (s.setN x).PHASE = s.PHASE := rfl
@[simp] theorem State.setN_N (s : State) (x : BitVec 56) : (s.setN x).N = x := rfl
@[simp] theorem State.setN_J (s : State) (x : BitVec 56) : (s.setN x).J = s.J := rfl
@[simp] theorem State.setN_VARIANT (s : State) (x : BitVec 56) : (s.setN x).VARIANT = s.VARIANT := rfl
@[simp] theorem State.setN_LEN (s : State) (x : BitVec 56) : (s.setN x).LEN = s.LEN := rfl
@[simp] theorem State.setN_H (s : State) (x : BitVec 56) : (s.setN x).H = s.H := rfl
@[simp] theorem State.setN_WK (s : State) (x : BitVec 56) : (s.setN x).WK = s.WK := rfl
@[simp] theorem State.setN_W (s : State) (x : BitVec 56) : (s.setN x).W = s.W := rfl
@[simp] theorem State.setN_BLK (s : State) (x : BitVec 56) : (s.setN x).BLK = s.BLK := rfl
@[simp] theorem State.setN_DIGEST_HEX (s : State) (x : BitVec 56) : (s.setN x).DIGEST_HEX = s.DIGEST_HEX := rfl
@[simp] theorem State.setN_hin (s : State) (x : BitVec 56) : (s.setN x).hin = s.hin := rfl
@[simp] theorem State.setN_msgLen (s : State) (x : BitVec 56) : (s.setN x).msgLen = s.msgLen := rfl
@[simp] theorem State.setN_mem (s : State) (x : BitVec 56) : (s.setN x).mem = s.mem := rfl
@[simp] theorem State.setN_host (s : State) (x : BitVec 56) : (s.setN x).host = s.host := rfl
@[simp] theorem State.setN_draw (s : State) (x : BitVec 56) : (s.setN x).draw = s.draw := rfl

/-! ### setJ -/

@[simp] theorem State.setJ_PHASE (s : State) (x : BitVec 6) : (s.setJ x).PHASE = s.PHASE := rfl
@[simp] theorem State.setJ_N (s : State) (x : BitVec 6) : (s.setJ x).N = s.N := rfl
@[simp] theorem State.setJ_J (s : State) (x : BitVec 6) : (s.setJ x).J = x := rfl
@[simp] theorem State.setJ_VARIANT (s : State) (x : BitVec 6) : (s.setJ x).VARIANT = s.VARIANT := rfl
@[simp] theorem State.setJ_LEN (s : State) (x : BitVec 6) : (s.setJ x).LEN = s.LEN := rfl
@[simp] theorem State.setJ_H (s : State) (x : BitVec 6) : (s.setJ x).H = s.H := rfl
@[simp] theorem State.setJ_WK (s : State) (x : BitVec 6) : (s.setJ x).WK = s.WK := rfl
@[simp] theorem State.setJ_W (s : State) (x : BitVec 6) : (s.setJ x).W = s.W := rfl
@[simp] theorem State.setJ_BLK (s : State) (x : BitVec 6) : (s.setJ x).BLK = s.BLK := rfl
@[simp] theorem State.setJ_DIGEST_HEX (s : State) (x : BitVec 6) : (s.setJ x).DIGEST_HEX = s.DIGEST_HEX := rfl
@[simp] theorem State.setJ_hin (s : State) (x : BitVec 6) : (s.setJ x).hin = s.hin := rfl
@[simp] theorem State.setJ_msgLen (s : State) (x : BitVec 6) : (s.setJ x).msgLen = s.msgLen := rfl
@[simp] theorem State.setJ_mem (s : State) (x : BitVec 6) : (s.setJ x).mem = s.mem := rfl
@[simp] theorem State.setJ_host (s : State) (x : BitVec 6) : (s.setJ x).host = s.host := rfl
@[simp] theorem State.setJ_draw (s : State) (x : BitVec 6) : (s.setJ x).draw = s.draw := rfl

/-! ### setVARIANT -/

@[simp] theorem State.setVARIANT_PHASE (s : State) (x : Variant) : (s.setVARIANT x).PHASE = s.PHASE := rfl
@[simp] theorem State.setVARIANT_N (s : State) (x : Variant) : (s.setVARIANT x).N = s.N := rfl
@[simp] theorem State.setVARIANT_J (s : State) (x : Variant) : (s.setVARIANT x).J = s.J := rfl
@[simp] theorem State.setVARIANT_VARIANT (s : State) (x : Variant) : (s.setVARIANT x).VARIANT = x := rfl
@[simp] theorem State.setVARIANT_LEN (s : State) (x : Variant) : (s.setVARIANT x).LEN = s.LEN := rfl
@[simp] theorem State.setVARIANT_H (s : State) (x : Variant) : (s.setVARIANT x).H = s.H := rfl
@[simp] theorem State.setVARIANT_WK (s : State) (x : Variant) : (s.setVARIANT x).WK = s.WK := rfl
@[simp] theorem State.setVARIANT_W (s : State) (x : Variant) : (s.setVARIANT x).W = s.W := rfl
@[simp] theorem State.setVARIANT_BLK (s : State) (x : Variant) : (s.setVARIANT x).BLK = s.BLK := rfl
@[simp] theorem State.setVARIANT_DIGEST_HEX (s : State) (x : Variant) : (s.setVARIANT x).DIGEST_HEX = s.DIGEST_HEX := rfl
@[simp] theorem State.setVARIANT_hin (s : State) (x : Variant) : (s.setVARIANT x).hin = s.hin := rfl
@[simp] theorem State.setVARIANT_msgLen (s : State) (x : Variant) : (s.setVARIANT x).msgLen = s.msgLen := rfl
@[simp] theorem State.setVARIANT_mem (s : State) (x : Variant) : (s.setVARIANT x).mem = s.mem := rfl
@[simp] theorem State.setVARIANT_host (s : State) (x : Variant) : (s.setVARIANT x).host = s.host := rfl
@[simp] theorem State.setVARIANT_draw (s : State) (x : Variant) : (s.setVARIANT x).draw = s.draw := rfl

/-! ### setLEN -/

@[simp] theorem State.setLEN_PHASE (s : State) (x : BitVec 61) : (s.setLEN x).PHASE = s.PHASE := rfl
@[simp] theorem State.setLEN_N (s : State) (x : BitVec 61) : (s.setLEN x).N = s.N := rfl
@[simp] theorem State.setLEN_J (s : State) (x : BitVec 61) : (s.setLEN x).J = s.J := rfl
@[simp] theorem State.setLEN_VARIANT (s : State) (x : BitVec 61) : (s.setLEN x).VARIANT = s.VARIANT := rfl
@[simp] theorem State.setLEN_LEN (s : State) (x : BitVec 61) : (s.setLEN x).LEN = x := rfl
@[simp] theorem State.setLEN_H (s : State) (x : BitVec 61) : (s.setLEN x).H = s.H := rfl
@[simp] theorem State.setLEN_WK (s : State) (x : BitVec 61) : (s.setLEN x).WK = s.WK := rfl
@[simp] theorem State.setLEN_W (s : State) (x : BitVec 61) : (s.setLEN x).W = s.W := rfl
@[simp] theorem State.setLEN_BLK (s : State) (x : BitVec 61) : (s.setLEN x).BLK = s.BLK := rfl
@[simp] theorem State.setLEN_DIGEST_HEX (s : State) (x : BitVec 61) : (s.setLEN x).DIGEST_HEX = s.DIGEST_HEX := rfl
@[simp] theorem State.setLEN_hin (s : State) (x : BitVec 61) : (s.setLEN x).hin = s.hin := rfl
@[simp] theorem State.setLEN_msgLen (s : State) (x : BitVec 61) : (s.setLEN x).msgLen = s.msgLen := rfl
@[simp] theorem State.setLEN_mem (s : State) (x : BitVec 61) : (s.setLEN x).mem = s.mem := rfl
@[simp] theorem State.setLEN_host (s : State) (x : BitVec 61) : (s.setLEN x).host = s.host := rfl
@[simp] theorem State.setLEN_draw (s : State) (x : BitVec 61) : (s.setLEN x).draw = s.draw := rfl

/-! ### setH -/

@[simp] theorem State.setH_PHASE (s : State) (x : Vector Word 8) : (s.setH x).PHASE = s.PHASE := rfl
@[simp] theorem State.setH_N (s : State) (x : Vector Word 8) : (s.setH x).N = s.N := rfl
@[simp] theorem State.setH_J (s : State) (x : Vector Word 8) : (s.setH x).J = s.J := rfl
@[simp] theorem State.setH_VARIANT (s : State) (x : Vector Word 8) : (s.setH x).VARIANT = s.VARIANT := rfl
@[simp] theorem State.setH_LEN (s : State) (x : Vector Word 8) : (s.setH x).LEN = s.LEN := rfl
@[simp] theorem State.setH_H (s : State) (x : Vector Word 8) : (s.setH x).H = x := rfl
@[simp] theorem State.setH_WK (s : State) (x : Vector Word 8) : (s.setH x).WK = s.WK := rfl
@[simp] theorem State.setH_W (s : State) (x : Vector Word 8) : (s.setH x).W = s.W := rfl
@[simp] theorem State.setH_BLK (s : State) (x : Vector Word 8) : (s.setH x).BLK = s.BLK := rfl
@[simp] theorem State.setH_DIGEST_HEX (s : State) (x : Vector Word 8) : (s.setH x).DIGEST_HEX = s.DIGEST_HEX := rfl
@[simp] theorem State.setH_hin (s : State) (x : Vector Word 8) : (s.setH x).hin = s.hin := rfl
@[simp] theorem State.setH_msgLen (s : State) (x : Vector Word 8) : (s.setH x).msgLen = s.msgLen := rfl
@[simp] theorem State.setH_mem (s : State) (x : Vector Word 8) : (s.setH x).mem = s.mem := rfl
@[simp] theorem State.setH_host (s : State) (x : Vector Word 8) : (s.setH x).host = s.host := rfl
@[simp] theorem State.setH_draw (s : State) (x : Vector Word 8) : (s.setH x).draw = s.draw := rfl

/-! ### setWK -/

@[simp] theorem State.setWK_PHASE (s : State) (x : Work) : (s.setWK x).PHASE = s.PHASE := rfl
@[simp] theorem State.setWK_N (s : State) (x : Work) : (s.setWK x).N = s.N := rfl
@[simp] theorem State.setWK_J (s : State) (x : Work) : (s.setWK x).J = s.J := rfl
@[simp] theorem State.setWK_VARIANT (s : State) (x : Work) : (s.setWK x).VARIANT = s.VARIANT := rfl
@[simp] theorem State.setWK_LEN (s : State) (x : Work) : (s.setWK x).LEN = s.LEN := rfl
@[simp] theorem State.setWK_H (s : State) (x : Work) : (s.setWK x).H = s.H := rfl
@[simp] theorem State.setWK_WK (s : State) (x : Work) : (s.setWK x).WK = x := rfl
@[simp] theorem State.setWK_W (s : State) (x : Work) : (s.setWK x).W = s.W := rfl
@[simp] theorem State.setWK_BLK (s : State) (x : Work) : (s.setWK x).BLK = s.BLK := rfl
@[simp] theorem State.setWK_DIGEST_HEX (s : State) (x : Work) : (s.setWK x).DIGEST_HEX = s.DIGEST_HEX := rfl
@[simp] theorem State.setWK_hin (s : State) (x : Work) : (s.setWK x).hin = s.hin := rfl
@[simp] theorem State.setWK_msgLen (s : State) (x : Work) : (s.setWK x).msgLen = s.msgLen := rfl
@[simp] theorem State.setWK_mem (s : State) (x : Work) : (s.setWK x).mem = s.mem := rfl
@[simp] theorem State.setWK_host (s : State) (x : Work) : (s.setWK x).host = s.host := rfl
@[simp] theorem State.setWK_draw (s : State) (x : Work) : (s.setWK x).draw = s.draw := rfl

/-! ### setW -/

@[simp] theorem State.setW_PHASE (s : State) (x : Vector Word 64) : (s.setW x).PHASE = s.PHASE := rfl
@[simp] theorem State.setW_N (s : State) (x : Vector Word 64) : (s.setW x).N = s.N := rfl
@[simp] theorem State.setW_J (s : State) (x : Vector Word 64) : (s.setW x).J = s.J := rfl
@[simp] theorem State.setW_VARIANT (s : State) (x : Vector Word 64) : (s.setW x).VARIANT = s.VARIANT := rfl
@[simp] theorem State.setW_LEN (s : State) (x : Vector Word 64) : (s.setW x).LEN = s.LEN := rfl
@[simp] theorem State.setW_H (s : State) (x : Vector Word 64) : (s.setW x).H = s.H := rfl
@[simp] theorem State.setW_WK (s : State) (x : Vector Word 64) : (s.setW x).WK = s.WK := rfl
@[simp] theorem State.setW_W (s : State) (x : Vector Word 64) : (s.setW x).W = x := rfl
@[simp] theorem State.setW_BLK (s : State) (x : Vector Word 64) : (s.setW x).BLK = s.BLK := rfl
@[simp] theorem State.setW_DIGEST_HEX (s : State) (x : Vector Word 64) : (s.setW x).DIGEST_HEX = s.DIGEST_HEX := rfl
@[simp] theorem State.setW_hin (s : State) (x : Vector Word 64) : (s.setW x).hin = s.hin := rfl
@[simp] theorem State.setW_msgLen (s : State) (x : Vector Word 64) : (s.setW x).msgLen = s.msgLen := rfl
@[simp] theorem State.setW_mem (s : State) (x : Vector Word 64) : (s.setW x).mem = s.mem := rfl
@[simp] theorem State.setW_host (s : State) (x : Vector Word 64) : (s.setW x).host = s.host := rfl
@[simp] theorem State.setW_draw (s : State) (x : Vector Word 64) : (s.setW x).draw = s.draw := rfl

/-! ### setBLK -/

@[simp] theorem State.setBLK_PHASE (s : State) (x : Vector Byte 64) : (s.setBLK x).PHASE = s.PHASE := rfl
@[simp] theorem State.setBLK_N (s : State) (x : Vector Byte 64) : (s.setBLK x).N = s.N := rfl
@[simp] theorem State.setBLK_J (s : State) (x : Vector Byte 64) : (s.setBLK x).J = s.J := rfl
@[simp] theorem State.setBLK_VARIANT (s : State) (x : Vector Byte 64) : (s.setBLK x).VARIANT = s.VARIANT := rfl
@[simp] theorem State.setBLK_LEN (s : State) (x : Vector Byte 64) : (s.setBLK x).LEN = s.LEN := rfl
@[simp] theorem State.setBLK_H (s : State) (x : Vector Byte 64) : (s.setBLK x).H = s.H := rfl
@[simp] theorem State.setBLK_WK (s : State) (x : Vector Byte 64) : (s.setBLK x).WK = s.WK := rfl
@[simp] theorem State.setBLK_W (s : State) (x : Vector Byte 64) : (s.setBLK x).W = s.W := rfl
@[simp] theorem State.setBLK_BLK (s : State) (x : Vector Byte 64) : (s.setBLK x).BLK = x := rfl
@[simp] theorem State.setBLK_DIGEST_HEX (s : State) (x : Vector Byte 64) : (s.setBLK x).DIGEST_HEX = s.DIGEST_HEX := rfl
@[simp] theorem State.setBLK_hin (s : State) (x : Vector Byte 64) : (s.setBLK x).hin = s.hin := rfl
@[simp] theorem State.setBLK_msgLen (s : State) (x : Vector Byte 64) : (s.setBLK x).msgLen = s.msgLen := rfl
@[simp] theorem State.setBLK_mem (s : State) (x : Vector Byte 64) : (s.setBLK x).mem = s.mem := rfl
@[simp] theorem State.setBLK_host (s : State) (x : Vector Byte 64) : (s.setBLK x).host = s.host := rfl
@[simp] theorem State.setBLK_draw (s : State) (x : Vector Byte 64) : (s.setBLK x).draw = s.draw := rfl

/-! ### setDIGEST_HEX -/

@[simp] theorem State.setDIGEST_HEX_PHASE (s : State) (x : Vector Byte 64) : (s.setDIGEST_HEX x).PHASE = s.PHASE := rfl
@[simp] theorem State.setDIGEST_HEX_N (s : State) (x : Vector Byte 64) : (s.setDIGEST_HEX x).N = s.N := rfl
@[simp] theorem State.setDIGEST_HEX_J (s : State) (x : Vector Byte 64) : (s.setDIGEST_HEX x).J = s.J := rfl
@[simp] theorem State.setDIGEST_HEX_VARIANT (s : State) (x : Vector Byte 64) : (s.setDIGEST_HEX x).VARIANT = s.VARIANT := rfl
@[simp] theorem State.setDIGEST_HEX_LEN (s : State) (x : Vector Byte 64) : (s.setDIGEST_HEX x).LEN = s.LEN := rfl
@[simp] theorem State.setDIGEST_HEX_H (s : State) (x : Vector Byte 64) : (s.setDIGEST_HEX x).H = s.H := rfl
@[simp] theorem State.setDIGEST_HEX_WK (s : State) (x : Vector Byte 64) : (s.setDIGEST_HEX x).WK = s.WK := rfl
@[simp] theorem State.setDIGEST_HEX_W (s : State) (x : Vector Byte 64) : (s.setDIGEST_HEX x).W = s.W := rfl
@[simp] theorem State.setDIGEST_HEX_BLK (s : State) (x : Vector Byte 64) : (s.setDIGEST_HEX x).BLK = s.BLK := rfl
@[simp] theorem State.setDIGEST_HEX_DIGEST_HEX (s : State) (x : Vector Byte 64) : (s.setDIGEST_HEX x).DIGEST_HEX = x := rfl
@[simp] theorem State.setDIGEST_HEX_hin (s : State) (x : Vector Byte 64) : (s.setDIGEST_HEX x).hin = s.hin := rfl
@[simp] theorem State.setDIGEST_HEX_msgLen (s : State) (x : Vector Byte 64) : (s.setDIGEST_HEX x).msgLen = s.msgLen := rfl
@[simp] theorem State.setDIGEST_HEX_mem (s : State) (x : Vector Byte 64) : (s.setDIGEST_HEX x).mem = s.mem := rfl
@[simp] theorem State.setDIGEST_HEX_host (s : State) (x : Vector Byte 64) : (s.setDIGEST_HEX x).host = s.host := rfl
@[simp] theorem State.setDIGEST_HEX_draw (s : State) (x : Vector Byte 64) : (s.setDIGEST_HEX x).draw = s.draw := rfl

/-! ### drawRegisters: the host's side and `PHASE` -/

@[simp] theorem State.drawRegisters_PHASE (s : State) : s.drawRegisters.PHASE = s.PHASE := rfl
@[simp] theorem State.drawRegisters_hin (s : State) : s.drawRegisters.hin = s.hin := rfl
@[simp] theorem State.drawRegisters_msgLen (s : State) : s.drawRegisters.msgLen = s.msgLen := rfl
@[simp] theorem State.drawRegisters_mem (s : State) : s.drawRegisters.mem = s.mem := rfl
@[simp] theorem State.drawRegisters_host (s : State) : s.drawRegisters.host = s.host := rfl
@[simp] theorem State.drawRegisters_draw (s : State) : s.drawRegisters.draw = s.draw := rfl

/-! ### start -/

@[simp] theorem State.start_PHASE (s : State) (v : Variant) : (s.start v).PHASE = .pad := rfl
@[simp] theorem State.start_N (s : State) (v : Variant) : (s.start v).N = 0#56 := rfl
@[simp] theorem State.start_J (s : State) (v : Variant) : (s.start v).J = 0#6 := rfl
@[simp] theorem State.start_VARIANT (s : State) (v : Variant) : (s.start v).VARIANT = v := rfl
@[simp] theorem State.start_LEN (s : State) (v : Variant) : (s.start v).LEN = s.msgLen := rfl
@[simp] theorem State.start_H (s : State) (v : Variant) : (s.start v).H = IV v := rfl
@[simp] theorem State.start_WK (s : State) (v : Variant) : (s.start v).WK = s.WK := rfl
@[simp] theorem State.start_W (s : State) (v : Variant) : (s.start v).W = s.W := rfl
@[simp] theorem State.start_BLK (s : State) (v : Variant) : (s.start v).BLK = s.BLK := rfl
@[simp] theorem State.start_DIGEST_HEX (s : State) (v : Variant) : (s.start v).DIGEST_HEX = s.DIGEST_HEX := rfl
@[simp] theorem State.start_hin (s : State) (v : Variant) : (s.start v).hin = s.hin := rfl
@[simp] theorem State.start_msgLen (s : State) (v : Variant) : (s.start v).msgLen = s.msgLen := rfl
@[simp] theorem State.start_mem (s : State) (v : Variant) : (s.start v).mem = s.mem := rfl
@[simp] theorem State.start_host (s : State) (v : Variant) : (s.start v).host = s.host := rfl
@[simp] theorem State.start_draw (s : State) (v : Variant) : (s.start v).draw = s.draw := rfl

/-! ### endStep: the registers, the draw index, and the host's side in its two cases -/

@[simp] theorem State.endStep_PHASE (s : State) : s.endStep.PHASE = s.PHASE := by
  unfold State.endStep; split <;> rfl
@[simp] theorem State.endStep_N (s : State) : s.endStep.N = s.N := by
  unfold State.endStep; split <;> rfl
@[simp] theorem State.endStep_J (s : State) : s.endStep.J = s.J := by
  unfold State.endStep; split <;> rfl
@[simp] theorem State.endStep_VARIANT (s : State) : s.endStep.VARIANT = s.VARIANT := by
  unfold State.endStep; split <;> rfl
@[simp] theorem State.endStep_LEN (s : State) : s.endStep.LEN = s.LEN := by
  unfold State.endStep; split <;> rfl
@[simp] theorem State.endStep_H (s : State) : s.endStep.H = s.H := by
  unfold State.endStep; split <;> rfl
@[simp] theorem State.endStep_WK (s : State) : s.endStep.WK = s.WK := by
  unfold State.endStep; split <;> rfl
@[simp] theorem State.endStep_W (s : State) : s.endStep.W = s.W := by
  unfold State.endStep; split <;> rfl
@[simp] theorem State.endStep_BLK (s : State) : s.endStep.BLK = s.BLK := by
  unfold State.endStep; split <;> rfl
@[simp] theorem State.endStep_DIGEST_HEX (s : State) : s.endStep.DIGEST_HEX = s.DIGEST_HEX := by
  unfold State.endStep; split <;> rfl
@[simp] theorem State.endStep_draw (s : State) : s.endStep.draw = s.draw + 1 := by
  unfold State.endStep; split <;> rfl

theorem State.endStep_of_nil {s : State} (h : s.host = []) :
    s.endStep.hin = 0b000#3 ∧ s.endStep.msgLen = s.msgLen ∧ s.endStep.mem = s.mem ∧ s.endStep.host = [] := by
  simp [State.endStep, h]

theorem State.endStep_of_cons {s : State} {d : HostDrive} {rest : List HostDrive} (h : s.host = d :: rest) :
    s.endStep.hin = d.hin ∧ s.endStep.msgLen = d.msgLen ∧ s.endStep.mem = s.mem.storeAll d.stores ∧
      s.endStep.host = rest := by
  simp [State.endStep, h]

/-! ### The flags, from the phase -/

theorem State.busy_eq (s : State) : s.busy = phaseBusy s.PHASE := rfl
theorem State.done_eq (s : State) : s.done = decide (s.PHASE = .done) := rfl

end Sys2Proof.Machine
end

