-- ==== Sys2Proof/Laws/Data.lean ====
section
/-! SUPPORT. What the datapath functions give, as numbers and entry by entry, so that later proofs do not unfold them. -/

namespace Sys2Proof.Machine

/-! ### Additions modulo 2^32 -/

theorem add32_four (a b c d : Word) : add32 [a, b, c, d] = a + b + c + d := by
  apply BitVec.eq_of_toNat_eq
  simp [add32]
  omega

theorem add32_five (a b c d e : Word) : add32 [a, b, c, d, e] = a + b + c + d + e := by
  apply BitVec.eq_of_toNat_eq
  simp [add32]
  omega

/-! ### Words, nibbles and bytes as numbers -/

theorem wordOfBytes_toNat (a b c d : Byte) :
    (wordOfBytes a b c d).toNat = a.toNat * 2 ^ 24 + b.toNat * 2 ^ 16 + c.toNat * 2 ^ 8 + d.toNat := by
  have hb := b.isLt
  have hc := c.isLt
  have hd := d.isLt
  rw [wordOfBytes, BitVec.toNat_append, BitVec.toNat_append, BitVec.toNat_append,
    ← Nat.shiftLeft_add_eq_or_of_lt (i := 8) hb, ← Nat.shiftLeft_add_eq_or_of_lt (i := 8) hc,
    ← Nat.shiftLeft_add_eq_or_of_lt (i := 8) hd]
  simp only [Nat.shiftLeft_eq]
  omega

theorem byteOf64_toNat (v : BitVec 64) (q : Nat) : (byteOf64 v q).toNat = v.toNat / 256 ^ q % 256 := by
  simp [byteOf64, BitVec.extractLsb'_toNat, Nat.shiftRight_eq_div_pow, Nat.pow_mul]

theorem hexDigit_toNat (w : Word) (d : Nat) : (hexDigit w d).toNat = w.toNat / 2 ^ (28 - 4 * d) % 16 := by
  simp [hexDigit, BitVec.extractLsb'_toNat, Nat.shiftRight_eq_div_pow]

/-! ### The padder -/

/-- The block index never needs more than its 56 bits (10_state.md R17). -/
theorem NBLK_le (len : BitVec 61) : NBLK len.toNat ≤ 2 ^ 55 + 1 := by
  have := len.isLt
  unfold NBLK
  omega

/-- A PAD step reads an interval of offsets. -/
theorem padReads_eq (len : BitVec 61) (n : BitVec 56) :
    padReads len n = List.range' (64 * n.toNat) (min 64 (len.toNat - 64 * n.toNat)) := by
  have key : ∀ k a L : Nat, ((List.range k).map (a + ·)).filter (· < L) = List.range' a (min k (L - a)) := by
    intro k
    induction k with
    | zero => simp
    | succ k ih =>
      intro a L
      rw [List.range_succ, List.map_append, List.filter_append, ih]
      by_cases h : a + k < L
      · rw [show min (k + 1) (L - a) = k + 1 by omega, show min k (L - a) = k by omega]
        simp [h, List.range'_concat]
      · rw [show min (k + 1) (L - a) = min k (L - a) by omega]
        simp
        omega
  exact key 64 _ _

/-! ### The schedule -/

/-- The recurrence does not change the words it starts from. -/
theorem extendSchedule_prefix (n : Nat) (w : List Word) (i : Nat) (h : i < w.length) :
    (extendSchedule n w).getD i 0#32 = w.getD i 0#32 := by
  induction n generalizing w with
  | zero => rfl
  | succ n ih =>
    rw [extendSchedule, ih _ (by simp; omega)]
    simp [List.getD, List.getElem?_append_left h]

theorem expand_getElem (blk : Vector Byte 64) (i : Nat) (h : i < 64) :
    (expand blk)[i] = (extendSchedule 48 ((List.range 16).map (blockWord blk))).getD i 0#32 := by
  have hl : i < (extendSchedule 48 ((List.range 16).map (blockWord blk))).length := by
    rw [extendSchedule_length]
    simp
    omega
  simp only [expand, Vector.getElem_mk, List.getElem_toArray, List.getD, List.getElem?_eq_getElem hl, Option.getD_some]

/-- The word of four bytes of the block, with the bytes read inside the block. -/
theorem blockWord_eq (blk : Vector Byte 64) (i : Nat) (h : i < 16) :
    blockWord blk i = wordOfBytes blk[4 * i] blk[4 * i + 1] blk[4 * i + 2] blk[4 * i + 3] := by
  have e : ∀ j, (hj : j < 64) → blk.getD j 0#8 = blk[j] := fun j hj => vector_getD blk j hj _
  unfold blockWord
  simp only [e (4 * i) (by omega), e (4 * i + 1) (by omega), e (4 * i + 2) (by omega), e (4 * i + 3) (by omega)]

end Sys2Proof.Machine
end

