-- ==== Sys2Proof/Laws/Memory.lean ====
section
/-! SUPPORT. The message memory: every operation on it keeps the canonical form, and what a read gives after a store. -/

namespace Sys2Proof.Machine

theorem Memory.wf_nil : Memory.wf [] := ⟨List.Pairwise.nil, by simp⟩

theorem Memory.wf_tail {c : Host.Cell} {m : Memory} (h : Memory.wf (c :: m)) : Memory.wf m :=
  ⟨(List.pairwise_cons.1 h.1).2, fun d hd => h.2 d (List.mem_cons_of_mem _ hd)⟩

/-- Every entry after a store is the one stored or an entry of before. -/
theorem Memory.mem_write {m : Memory} {p : Nat} {b : Byte} {c : Host.Cell} (h : c ∈ m.write p b) : c = (p, b) ∨ c ∈ m := by
  induction m with
  | nil => simpa [Memory.write] using h
  | cons d m ih =>
    simp only [Memory.write] at h
    split at h
    · simpa using h
    · split at h
      · rcases List.mem_cons.1 h with h | h
        · exact .inl h
        · exact .inr (List.mem_cons_of_mem _ h)
      · rcases List.mem_cons.1 h with h | h
        · exact .inr (h ▸ List.mem_cons_self)
        · exact (ih h).imp id (List.mem_cons_of_mem _)

theorem Memory.write_wf {m : Memory} {p : Nat} {b : Byte} (h : m.wf) (hp : p < addressSpace) : (m.write p b).wf := by
  induction m with
  | nil => simp [Memory.write, Memory.wf, hp]
  | cons d m ih =>
    obtain ⟨q, c⟩ := d
    have hm : ∀ e ∈ m, q < e.1 := (List.pairwise_cons.1 h.1).1
    have hq : q < addressSpace := h.2 (q, c) List.mem_cons_self
    simp only [Memory.write]
    split
    · rename_i hpq
      refine ⟨List.pairwise_cons.2 ⟨?_, h.1⟩, ?_⟩
      · intro e he
        rcases List.mem_cons.1 he with rfl | he
        · exact hpq
        · exact lt_trans hpq (hm e he)
      · intro e he
        rcases List.mem_cons.1 he with rfl | he
        · exact hp
        · exact h.2 e he
    · split
      · rename_i hpq
        subst hpq
        refine ⟨List.pairwise_cons.2 ⟨hm, (List.pairwise_cons.1 h.1).2⟩, ?_⟩
        intro e he
        rcases List.mem_cons.1 he with rfl | he
        · exact hp
        · exact h.2 e (List.mem_cons_of_mem _ he)
      · rename_i h1 h2
        have ih := ih (Memory.wf_tail h)
        refine ⟨List.pairwise_cons.2 ⟨?_, ih.1⟩, ?_⟩
        · intro e he
          rcases Memory.mem_write he with rfl | he
          · show q < p
            omega
          · exact hm e he
        · intro e he
          rcases List.mem_cons.1 he with rfl | he
          · exact hq
          · exact ih.2 e he

theorem Memory.storeAll_wf {m : Memory} {l : List HostStore} (h : m.wf) : (m.storeAll l).wf := by
  induction l generalizing m with
  | nil => exact h
  | cons st l ih => exact ih (Memory.write_wf h st.offset.isLt)

@[simp] theorem Memory.read_write_same (m : Memory) (p : Nat) (b : Byte) : (m.write p b).read p = some b := by
  induction m with
  | nil => simp [Memory.write, Memory.read]
  | cons d m ih =>
    obtain ⟨q, c⟩ := d
    simp only [Memory.write]
    split
    · simp [Memory.read]
    · split
      · simp [Memory.read]
      · rename_i _ h
        simp [Memory.read, h, ih]

theorem Memory.read_write_other {m : Memory} {p q : Nat} {b : Byte} (h : q ≠ p) : (m.write p b).read q = m.read q := by
  induction m with
  | nil => simp [Memory.write, Memory.read, h]
  | cons d m ih =>
    obtain ⟨r, c⟩ := d
    simp only [Memory.write]
    split
    · simp [Memory.read, h]
    · split
      · rename_i _ hr
        subst hr
        simp [Memory.read, h]
      · simp only [Memory.read]
        split
        · rfl
        · exact ih

/-- A byte the host stores to no offset of is as before. -/
theorem Memory.read_storeAll_other {m : Memory} {l : List HostStore} {p : Nat} (h : ∀ st ∈ l, st.offset.toNat ≠ p) :
    (m.storeAll l).read p = m.read p := by
  induction l generalizing m with
  | nil => rfl
  | cons st l ih =>
    have hp : p ≠ st.offset.toNat := fun e => h st List.mem_cons_self e.symm
    exact (ih fun x hx => h x (List.mem_cons_of_mem _ hx)).trans (Memory.read_write_other hp)

theorem Memory.read_write (m : Memory) (p q : Nat) (b : Byte) : (m.write p b).read q = if q = p then some b else m.read q := by
  split
  · rename_i h
    rw [h, Memory.read_write_same]
  · rename_i h
    exact Memory.read_write_other h

theorem Memory.storeAll_append (m : Memory) (a b : List HostStore) : m.storeAll (a ++ b) = (m.storeAll a).storeAll b :=
  List.foldl_append

/-- A byte that the stores to its offset leave the same reads as before. -/
theorem Memory.read_storeAll_kept {m : Memory} {l : List HostStore} {p : Nat} {b : Byte} (h : m.read p = some b)
    (hl : ∀ st ∈ l, st.offset.toNat = p → st.byte = b) : (m.storeAll l).read p = some b := by
  induction l generalizing m with
  | nil => exact h
  | cons st l ih =>
    refine ih ?_ fun x hx => hl x (List.mem_cons_of_mem _ hx)
    rw [Memory.read_write]
    split
    · rename_i hp
      rw [hl st List.mem_cons_self hp.symm]
    · exact h

theorem State.endStep_mem_wf {s : State} (h : s.mem.wf) : s.endStep.mem.wf := by
  unfold State.endStep
  split
  · exact h
  · exact Memory.storeAll_wf h

end Sys2Proof.Machine
end

