-- ==== Sys2Proof/Laws/Step.lean ====
section
/-! SUPPORT. What one step can do, said once. -/

namespace Sys2Proof.Machine

/-! ### The dispatch of a step -/

theorem busy_of_phase {s : State} {p : Phase} (h : s.PHASE = p) : s.busy = phaseBusy p := by rw [State.busy_eq, h]

theorem phase_of_not_busy {s : State} (h : s.busy = false) : s.PHASE = .idle ∨ s.PHASE = .done := by
  cases hp : s.PHASE <;> simp_all [State.busy_eq, phaseBusy]

theorem operation_of_rst {s : State} (h : rstBit s.hin = true) : s.operation = .reset (s.hin.extractLsb' 0 2) := by
  simp [State.operation, dispatch, decodeH, h]

theorem operation_of_start {s : State} (hr : rstBit s.hin = false) (hs : startBit s.hin = true) (hb : s.busy = false) :
    s.operation = if variantBit s.hin then .startSha224 else .startSha256 := by
  rcases phase_of_not_busy hb with h | h <;> simp [State.operation, dispatch, decodeH, hr, hs, h, Phase.bits]

theorem operation_of_wait {s : State} (hr : rstBit s.hin = false) (hs : startBit s.hin = false) :
    s.operation = decodeS s.PHASE.bits := by
  simp [State.operation, dispatch, hr, hs]

theorem operation_of_busy {s : State} (hr : rstBit s.hin = false) (hb : s.busy = true) :
    s.operation = decodeS s.PHASE.bits := by
  cases hp : s.PHASE <;> simp_all [State.operation, dispatch, Phase.bits, State.busy_eq, phaseBusy]

/-- `exec` of the operation a phase selects is the sequencer's choice. -/
theorem exec_decodeS (s : State) : exec (decodeS s.PHASE.bits) s = performSequencer s := by
  cases hp : s.PHASE <;> simp [decodeS, Phase.bits, Phase.ofBits, performSequencer, hp, exec]

/-! ### What a step reads -/

theorem memReads_of_phase_ne_pad {s : State} (h : s.PHASE ≠ .pad) : s.memReads = [] := by
  have hS : s.memReadsOf (decodeS s.PHASE.bits) = [] := by
    cases hp : s.PHASE <;> simp_all [decodeS, Phase.bits, Phase.ofBits, State.memReadsOf]
  have hH : s.memReadsOf (decodeH s.hin) = [] := by
    unfold decodeH
    split
    · rfl
    · split
      · split <;> rfl
      · rfl
  simp only [State.memReads, State.operation, dispatch]
  split
  · exact hH
  · split
    · split
      · exact hH
      · exact hS
    · exact hS

theorem memReads_of_pad {s : State} (hr : rstBit s.hin = false) (h : s.PHASE = .pad) : s.memReads = padReads s.LEN s.N := by
  rw [State.memReads, operation_of_busy hr (busy_of_phase h), h]
  rfl

/-! ### One lemma per kind of step -/

theorem step_of_exec {s t : State} (h : exec s.operation s = .next t) : step s = .next t.endStep := by
  simp [step, h]

theorem step_reset {s : State} (h : rstBit s.hin = true) :
    step s = .next ((s.drawRegisters.setPHASE .idle).endStep) :=
  step_of_exec (by rw [operation_of_rst h]; rfl)

theorem step_start {s : State} {v : Variant} (h : s.acceptsStart v) : step s = .next ((s.start v).endStep) := by
  obtain ⟨hr, hs, hv, hb⟩ := h
  refine step_of_exec ?_
  rw [operation_of_start hr hs hb]
  cases hw : variantBit s.hin <;> simp_all [exec, execStartSha256, execStartSha224, Variant.ofBit]

/-- A step that neither resets nor accepts a START performs the sequencer operation. -/
theorem step_sequencer {s t : State} (hr : rstBit s.hin = false) (hs : s.busy = true ∨ startBit s.hin = false)
    (h : performSequencer s = .next t) : step s = .next t.endStep := by
  refine step_of_exec ?_
  rcases hs with hb | hs
  · rw [operation_of_busy hr hb, exec_decodeS, h]
  · rw [operation_of_wait hr hs, exec_decodeS, h]

theorem step_wait {s : State} (hb : s.busy = false) (hr : rstBit s.hin = false) (hs : startBit s.hin = false) :
    step s = .next s.endStep := by
  refine step_sequencer hr (.inr hs) ?_
  rcases phase_of_not_busy hb with h | h <;> simp [performSequencer, h, execIdle, execHold]

theorem step_pad {s : State} (hr : rstBit s.hin = false) (h : s.PHASE = .pad) :
    step s = .next ((s.setBLK (sha256Padder s.LEN s.N s.padderBytes).blk).setPHASE .sched).endStep :=
  step_sequencer hr (.inl (busy_of_phase h)) (by simp [performSequencer, h, execPad])

theorem step_sched {s : State} (hr : rstBit s.hin = false) (h : s.PHASE = .sched) :
    step s = .next ((s.setW (expand s.BLK)).setPHASE .winit).endStep :=
  step_sequencer hr (.inl (busy_of_phase h)) (by simp [performSequencer, h, execSched])

theorem step_winit {s : State} (hr : rstBit s.hin = false) (h : s.PHASE = .winit) :
    step s = .next (((s.setWK (Work.ofVector s.H)).setJ 0#6).setPHASE .round).endStep :=
  step_sequencer hr (.inl (busy_of_phase h)) (by simp [performSequencer, h, execWinit])

theorem step_round {s : State} (hr : rstBit s.hin = false) (h : s.PHASE = .round) :
    step s = .next (((s.setWK (sha256Round s.WK (kAt s.J) (wAt s.W s.J))).setJ
      (BitVec.ofNat 6 ((s.J.toNat + 1) % 64))).setPHASE (if s.J = 63#6 then .fold else .round)).endStep :=
  step_sequencer hr (.inl (busy_of_phase h)) (by simp [performSequencer, h, execRound])

theorem step_fold_last {s : State} (hr : rstBit s.hin = false) (h : s.PHASE = .fold)
    (hl : s.N.toNat + 1 = NBLK s.LEN.toNat) :
    step s = .next ((s.setH (foldHash s.H s.WK)).setPHASE .format).endStep :=
  step_sequencer hr (.inl (busy_of_phase h)) (by simp [performSequencer, h, execFold, State.lastBlock, hl]; rfl)

theorem step_fold_next {s : State} (hr : rstBit s.hin = false) (h : s.PHASE = .fold)
    (hl : s.N.toNat + 1 ≠ NBLK s.LEN.toNat) :
    step s = .next (((s.setH (foldHash s.H s.WK)).setN (BitVec.ofNat 56 (s.N.toNat + 1))).setPHASE .pad).endStep :=
  step_sequencer hr (.inl (busy_of_phase h)) (by simp [performSequencer, h, execFold, State.lastBlock, hl])

theorem step_format {s : State} (hr : rstBit s.hin = false) (h : s.PHASE = .format) :
    step s = .next ((s.setDIGEST_HEX (sha256DigestFormatter s.H s.VARIANT).hex).setPHASE .done).endStep :=
  step_sequencer hr (.inl (busy_of_phase h)) (by simp [performSequencer, h, execFormat])

/-- Everything a step can do: RESET, an accepted START, waiting, or the sequencer operation of the phase. -/
theorem step_cases {s t : State} (h : step s = .next t) :
    (rstBit s.hin = true ∧ t = (s.drawRegisters.setPHASE .idle).endStep) ∨
    (∃ v, s.acceptsStart v ∧ t = (s.start v).endStep) ∨
    (rstBit s.hin = false ∧ (
      (s.busy = false ∧ startBit s.hin = false ∧ t = s.endStep) ∨
      (s.PHASE = .pad ∧ t = ((s.setBLK (sha256Padder s.LEN s.N s.padderBytes).blk).setPHASE .sched).endStep) ∨
      (s.PHASE = .sched ∧ t = ((s.setW (expand s.BLK)).setPHASE .winit).endStep) ∨
      (s.PHASE = .winit ∧ t = (((s.setWK (Work.ofVector s.H)).setJ 0#6).setPHASE .round).endStep) ∨
      (s.PHASE = .round ∧ t = (((s.setWK (sha256Round s.WK (kAt s.J) (wAt s.W s.J))).setJ
        (BitVec.ofNat 6 ((s.J.toNat + 1) % 64))).setPHASE (if s.J = 63#6 then .fold else .round)).endStep) ∨
      (s.PHASE = .fold ∧ s.N.toNat + 1 = NBLK s.LEN.toNat ∧
        t = ((s.setH (foldHash s.H s.WK)).setPHASE .format).endStep) ∨
      (s.PHASE = .fold ∧ s.N.toNat + 1 ≠ NBLK s.LEN.toNat ∧
        t = (((s.setH (foldHash s.H s.WK)).setN (BitVec.ofNat 56 (s.N.toNat + 1))).setPHASE .pad).endStep) ∨
      (s.PHASE = .format ∧
        t = ((s.setDIGEST_HEX (sha256DigestFormatter s.H s.VARIANT).hex).setPHASE .done).endStep))) := by
  have key : ∀ {u}, step s = .next u → t = u := fun hu => by rw [h] at hu; exact Host.Outcome.next.inj hu
  cases hr : rstBit s.hin with
  | true => exact .inl ⟨rfl, key (step_reset hr)⟩
  | false =>
    refine .inr ?_
    cases hp : s.PHASE with
    | idle | done =>
      have hb : s.busy = false := busy_of_phase hp
      cases hs : startBit s.hin with
      | true => exact .inl ⟨_, ⟨hr, hs, rfl, hb⟩, key (step_start ⟨hr, hs, rfl, hb⟩)⟩
      | false => exact .inr ⟨rfl, .inl ⟨hb, rfl, key (step_wait hb hr hs)⟩⟩
    | pad => exact .inr ⟨rfl, .inr (.inl ⟨rfl, key (step_pad hr hp)⟩)⟩
    | sched => exact .inr ⟨rfl, .inr (.inr (.inl ⟨rfl, key (step_sched hr hp)⟩))⟩
    | winit => exact .inr ⟨rfl, .inr (.inr (.inr (.inl ⟨rfl, key (step_winit hr hp)⟩)))⟩
    | round => exact .inr ⟨rfl, .inr (.inr (.inr (.inr (.inl ⟨rfl, key (step_round hr hp)⟩))))⟩
    | fold =>
      by_cases hl : s.N.toNat + 1 = NBLK s.LEN.toNat
      · exact .inr ⟨rfl, .inr (.inr (.inr (.inr (.inr (.inl ⟨rfl, hl, key (step_fold_last hr hp hl)⟩)))))⟩
      · exact .inr ⟨rfl, .inr (.inr (.inr (.inr (.inr (.inr (.inl ⟨rfl, hl, key (step_fold_next hr hp hl)⟩))))))⟩
    | format => exact .inr ⟨rfl, .inr (.inr (.inr (.inr (.inr (.inr (.inr ⟨rfl, key (step_format hr hp)⟩))))))⟩

/-- After a step the host's next entry is on the ports, whatever the operation was. -/
theorem step_host {s t : State} (h : step s = .next t) :
    t.hin = (match s.host with | [] => 0b000#3 | d :: _ => d.hin) ∧ t.host = s.host.tail ∧
      t.mem = (match s.host with | [] => s.mem | d :: _ => s.mem.storeAll d.stores) ∧ t.draw = s.draw + 1 := by
  have key : ∀ u : State, u.host = s.host → u.mem = s.mem → u.draw = s.draw → t = u.endStep →
      t.hin = (match s.host with | [] => 0b000#3 | d :: _ => d.hin) ∧ t.host = s.host.tail ∧
        t.mem = (match s.host with | [] => s.mem | d :: _ => s.mem.storeAll d.stores) ∧ t.draw = s.draw + 1 := by
    rintro u h1 h2 h3 rfl
    rw [← h1, ← h2, ← h3]
    cases hu : u.host with
    | nil => obtain ⟨a, -, b, c⟩ := State.endStep_of_nil hu; simp [a, b, c]
    | cons d rest => obtain ⟨a, -, b, c⟩ := State.endStep_of_cons hu; simp [a, b, c]
  rcases step_cases h with ⟨-, ht⟩ | ⟨v, -, ht⟩ | ⟨-, ⟨-, -, ht⟩ | ⟨-, ht⟩ | ⟨-, ht⟩ | ⟨-, ht⟩ | ⟨-, ht⟩ | ⟨-, -, ht⟩ |
    ⟨-, -, ht⟩ | ⟨-, ht⟩⟩ <;> exact key _ (by simp) (by simp) (by simp) ht

end Sys2Proof.Machine
end

