-- ==== Sys2Proof/Laws/Frame.lean ====
section
/-! SUPPORT. What one register write changes, and how the frames of several writes compose. A meaning is a chain of register
writes, so its frame is the chain of theirs. -/

namespace Sys2Proof.Machine

theorem samePorts_refl (s : State) : SamePorts s s := ⟨rfl, rfl, rfl, rfl⟩

theorem samePorts_trans {s t u : State} (h : SamePorts s t) (k : SamePorts t u) : SamePorts s u := by
  obtain ⟨h1, h2, h3, h4⟩ := h
  obtain ⟨k1, k2, k3, k4⟩ := k
  exact ⟨k1.trans h1, k2.trans h2, k3.trans h3, k4.trans h4⟩

theorem sameReg_trans {s t u : State} {r : Reg} (h : SameReg s t r) (k : SameReg t u r) : SameReg s u r := by
  cases r <;> exact Eq.trans k h

theorem frame_refl (s : State) : FrameExcept [] s s :=
  ⟨fun r _ => by cases r <;> rfl, fun _ => rfl, samePorts_refl s⟩

theorem frame_trans {a b : List Reg} {s t u : State} (h : FrameExcept a s t) (k : FrameExcept b t u) :
    FrameExcept (a ++ b) s u := by
  obtain ⟨h1, h2, h3⟩ := h
  obtain ⟨k1, k2, k3⟩ := k
  refine ⟨fun r hr => ?_, fun p => (k2 p).trans (h2 p), samePorts_trans h3 k3⟩
  rw [List.mem_append, not_or] at hr
  exact sameReg_trans (h1 r hr.1) (k1 r hr.2)

/-- A frame may be stated with more registers than were written. -/
theorem frame_mono {a b : List Reg} {s t : State} (h : FrameExcept a s t) (hab : ∀ r ∈ a, r ∈ b) :
    FrameExcept b s t :=
  ⟨fun r hr => h.1 r fun hra => hr (hab r hra), h.2⟩

theorem frame_setPHASE (s : State) (x : Phase) : FrameExcept [.PHASE] s (s.setPHASE x) := by
  refine ⟨fun r hr => ?_, by simp, by simp [SamePorts]⟩
  cases r <;> simp_all [SameReg]

theorem frame_setN (s : State) (x : BitVec 56) : FrameExcept [.N] s (s.setN x) := by
  refine ⟨fun r hr => ?_, by simp, by simp [SamePorts]⟩
  cases r <;> simp_all [SameReg]

theorem frame_setJ (s : State) (x : BitVec 6) : FrameExcept [.J] s (s.setJ x) := by
  refine ⟨fun r hr => ?_, by simp, by simp [SamePorts]⟩
  cases r <;> simp_all [SameReg]

theorem frame_setVARIANT (s : State) (x : Variant) : FrameExcept [.VARIANT] s (s.setVARIANT x) := by
  refine ⟨fun r hr => ?_, by simp, by simp [SamePorts]⟩
  cases r <;> simp_all [SameReg]

theorem frame_setLEN (s : State) (x : BitVec 61) : FrameExcept [.LEN] s (s.setLEN x) := by
  refine ⟨fun r hr => ?_, by simp, by simp [SamePorts]⟩
  cases r <;> simp_all [SameReg]

theorem frame_setH (s : State) (x : Vector Word 8) : FrameExcept [.H] s (s.setH x) := by
  refine ⟨fun r hr => ?_, by simp, by simp [SamePorts]⟩
  cases r <;> simp_all [SameReg]

theorem frame_setWK (s : State) (x : Work) : FrameExcept [.WK] s (s.setWK x) := by
  refine ⟨fun r hr => ?_, by simp, by simp [SamePorts]⟩
  cases r <;> simp_all [SameReg]

theorem frame_setW (s : State) (x : Vector Word 64) : FrameExcept [.W] s (s.setW x) := by
  refine ⟨fun r hr => ?_, by simp, by simp [SamePorts]⟩
  cases r <;> simp_all [SameReg]

theorem frame_setBLK (s : State) (x : Vector Byte 64) : FrameExcept [.BLK] s (s.setBLK x) := by
  refine ⟨fun r hr => ?_, by simp, by simp [SamePorts]⟩
  cases r <;> simp_all [SameReg]

theorem frame_setDIGEST_HEX (s : State) (x : Vector Byte 64) : FrameExcept [.DIGEST_HEX] s (s.setDIGEST_HEX x) := by
  refine ⟨fun r hr => ?_, by simp, by simp [SamePorts]⟩
  cases r <;> simp_all [SameReg]

/-- A sequencer operation always gives a next state. -/
theorem performSequencer_next (s : State) : ∃ t, performSequencer s = .next t := by
  cases hp : s.PHASE <;>
    simp [performSequencer, hp, execIdle, execPad, execSched, execWinit, execRound, execFold, execFormat, execHold]

end Sys2Proof.Machine
end

