-- ==== Sys2Proof/Laws/PerInstr.lean ====
section
/-! SUPPORT. Statements made per operation, one lemma per constructor. -/

namespace Sys2Proof.Laws.EncodeMatchesRow

/-- The word an operation is encoded as lies in the operation's own row of spec/opcode_table.json (30_encoding.md section 7,
R62, R64). -/
def Statement (i : Instr) : Prop :=
  (opcodeRow i).covers (encode i).format (BitVec.ofNat 3 (encode i).value) = true

theorem reset (ignored : BitVec 2) : Statement (.reset ignored) := by
  unfold Statement
  revert ignored
  decide

theorem nop (ignored : BitVec 1) : Statement (.nop ignored) := by
  unfold Statement
  revert ignored
  decide

theorem startSha256 : Statement .startSha256 := by
  unfold Statement
  decide

theorem startSha224 : Statement .startSha224 := by
  unfold Statement
  decide

theorem idle : Statement .idle := by
  unfold Statement
  decide

theorem pad : Statement .pad := by
  unfold Statement
  decide

theorem sched : Statement .sched := by
  unfold Statement
  decide

theorem winit : Statement .winit := by
  unfold Statement
  decide

theorem round : Statement .round := by
  unfold Statement
  decide

theorem fold : Statement .fold := by
  unfold Statement
  decide

theorem format : Statement .format := by
  unfold Statement
  decide

theorem hold : Statement .hold := by
  unfold Statement
  decide

end Sys2Proof.Laws.EncodeMatchesRow
end

