-- ==== Sys2Proof/Laws/Run.lean ====
section
/-! SUPPORT. Runs of several steps, and what the host's undertakings about a run become after a step of it. -/

namespace Sys2Proof.Machine

theorem run_succ {k : Nat} {s t : State} (h : step s = .next t) : run (k + 1) s = run k t := by
  simp [run, h]

theorem run_add {a b : Nat} {s t : State} (h : run a s = .next t) : run (a + b) s = run b t := by
  induction a generalizing s with
  | zero =>
    cases h
    simp
  | succ a ih =>
    rw [show a + 1 + b = (a + b) + 1 by omega]
    simp only [run] at h ⊢
    cases hs : step s with
    | next u =>
      rw [hs] at h
      exact ih h
    | fault r => cases r
    | refused r =>
      rw [hs] at h
      cases h

theorem readTrace_succ {k : Nat} {s t : State} (h : step s = .next t) : readTrace (k + 1) s = s.memReads ++ readTrace k t := by
  simp [readTrace, h]

theorem readTrace_add {a b : Nat} {s t : State} (h : run a s = .next t) :
    readTrace (a + b) s = readTrace a s ++ readTrace b t := by
  induction a generalizing s with
  | zero =>
    cases h
    simp [readTrace]
  | succ a ih =>
    rw [show a + 1 + b = (a + b) + 1 by omega]
    simp only [run] at h
    cases hs : step s with
    | next u =>
      rw [hs] at h
      rw [readTrace_succ hs, readTrace_succ hs, ih h, List.append_assoc]
    | fault r => cases r
    | refused r =>
      rw [hs] at h
      cases h

theorem operationTrace_succ {k : Nat} {s t : State} (h : step s = .next t) :
    operationTrace (k + 1) s = (s.operation, s.N.toNat, s.J.toNat) :: operationTrace k t := by
  simp [operationTrace, h]

theorem operationTrace_add {a b : Nat} {s t : State} (h : run a s = .next t) :
    operationTrace (a + b) s = operationTrace a s ++ operationTrace b t := by
  induction a generalizing s with
  | zero =>
    cases h
    simp [operationTrace]
  | succ a ih =>
    rw [show a + 1 + b = (a + b) + 1 by omega]
    simp only [run] at h
    cases hs : step s with
    | next u =>
      rw [hs] at h
      rw [operationTrace_succ hs, operationTrace_succ hs, ih h, List.cons_append]
    | fault r => cases r
    | refused r =>
      rw [hs] at h
      cases h

/-- The host presents `rst = 0` in the coming step and in the `k` steps after it. -/
def State.Quiet (s : State) (k : Nat) : Prop := rstBit s.hin = false ∧ s.noResetFor k

theorem State.Quiet.mono {s : State} {j k : Nat} (h : s.Quiet k) (hj : j ≤ k) : s.Quiet j :=
  ⟨h.1, fun d hd => h.2 d ((List.take_prefix_take_left hj).subset hd)⟩

theorem noResetFor_step {s t : State} {k : Nat} (h : s.noResetFor (k + 1)) (hs : step s = .next t) : t.Quiet k := by
  obtain ⟨h1, h2, -⟩ := step_host hs
  cases hh : s.host with
  | nil =>
    rw [hh] at h1 h2
    refine ⟨by rw [h1]; rfl, ?_⟩
    simp [State.noResetFor, h2]
  | cons d rest =>
    rw [hh] at h1 h2
    rw [State.noResetFor, hh] at h
    refine ⟨by rw [h1]; exact h d (by simp), fun e he => h e ?_⟩
    rw [h2] at he
    simp only [List.tail_cons] at he
    simp [he]

theorem noStartFor_step {s t : State} {k : Nat} (h : s.noStartFor (k + 1)) (hs : step s = .next t) :
    startBit t.hin = false ∧ t.noStartFor k := by
  obtain ⟨h1, h2, -⟩ := step_host hs
  cases hh : s.host with
  | nil =>
    rw [hh] at h1 h2
    refine ⟨by rw [h1]; rfl, ?_⟩
    simp [State.noStartFor, h2]
  | cons d rest =>
    rw [hh] at h1 h2
    rw [State.noStartFor, hh] at h
    refine ⟨by rw [h1]; exact h d (by simp), fun e he => h e ?_⟩
    rw [h2] at he
    simp only [List.tail_cons] at he
    simp [he]

/-! ### A message that stays in memory -/

theorem State.holdsMessageFor.now {s : State} {k : Nat} {m : List Byte} (h : s.holdsMessageFor k m) : s.holdsMessage m :=
  h 0 (Nat.zero_le k) s rfl

theorem holdsMessageFor_step {s t : State} {k : Nat} {m : List Byte} (h : s.holdsMessageFor (k + 1) m)
    (hs : step s = .next t) : t.holdsMessageFor k m :=
  fun j hj u hu => h (j + 1) (by omega) u (by rw [run_succ hs, hu])

theorem holdsMessageFor_run {s t : State} {a b : Nat} {m : List Byte} (h : s.holdsMessageFor (a + b) m)
    (hr : run a s = .next t) : t.holdsMessageFor b m :=
  fun j hj u hu => h (a + j) (by omega) u (by rw [run_add hr, hu])

/-- A step keeps the message in memory when every byte the host's next entry stores into it is the byte of the message. -/
theorem holdsMessage_step {s t : State} {m : List Byte} (h : s.holdsMessage m)
    (hd : ∀ d ∈ s.host.head?, ∀ st ∈ d.stores, ∀ hp : st.offset.toNat < m.length, st.byte = m[st.offset.toNat])
    (hs : step s = .next t) : t.holdsMessage m := by
  obtain ⟨-, -, h3, -⟩ := step_host hs
  intro p hp
  cases hh : s.host with
  | nil =>
    rw [hh] at h3
    rw [h3]
    exact h p hp
  | cons d rest =>
    rw [hh] at h3
    rw [h3]
    refine Memory.read_storeAll_kept (h p hp) fun st hst e => ?_
    subst e
    exact hd d (by simp [hh]) st hst hp

/-- A host that stores into the message only the bytes already there, or nothing, keeps it in memory. -/
theorem holdsMessageFor_of_stores {s : State} {k : Nat} {m : List Byte} (h : s.holdsMessage m)
    (hd : ∀ d ∈ s.host.take k, ∀ st ∈ d.stores, ∀ hp : st.offset.toNat < m.length, st.byte = m[st.offset.toNat]) :
    s.holdsMessageFor k m := by
  intro j
  induction j generalizing s k with
  | zero =>
    intro _ t ht
    cases ht
    exact h
  | succ j ih =>
    intro hj t ht
    obtain ⟨k, rfl⟩ : ∃ i, k = i + 1 := ⟨k - 1, by omega⟩
    simp only [run] at ht
    cases hs : step s with
    | next u =>
      rw [hs] at ht
      refine ih (holdsMessage_step h (fun d hm => hd d ?_) hs) (k := k) (fun d hm => hd d ?_) (by omega) t ht
      · cases hh : s.host <;> simp_all
      · rw [(step_host hs).2.1] at hm
        cases hh : s.host <;> simp_all
    | fault r => cases r
    | refused r =>
      rw [hs] at ht
      cases ht

end Sys2Proof.Machine
end

