-- ==== Sys2Proof/Tests/Slice0.lean ====
section
/-! SUPPORT. The model's own tests: decoding of words written out from the spec, one step of each operation on a small state
with the results spec/95_test_vectors.md gives, and for every obligation with hypotheses a state that meets them. -/

namespace Sys2Proof.Tests

open Sys2Proof Sys2Proof.Machine

/-! ### Helpers -/

/-- A machine at rest with zero in every register and nothing placed by the host. -/
def base : State where
  PHASE := .idle
  N := 0#56
  J := 0#6
  VARIANT := .sha256
  LEN := 0#61
  H := tabulate 8 fun _ => 0#32
  WK := ⟨0#32, 0#32, 0#32, 0#32, 0#32, 0#32, 0#32, 0#32⟩
  W := tabulate 64 fun _ => 0#32
  BLK := tabulate 64 fun _ => 0#8
  DIGEST_HEX := tabulate 64 fun _ => 0#8
  hin := 0b000#3
  msgLen := 0#61
  mem := []
  host := []
  draw := 1

/-- The message "abc" in memory: bytes 61 62 63. -/
def abcMem : Memory := [(0, 0x61#8), (1, 0x62#8), (2, 0x63#8)]

/-- The machine in a phase, with "abc" in memory and its length sampled. -/
def abcAt (p : Phase) : State := { base with PHASE := p, LEN := 3#61, mem := abcMem }

/-- The host presents a command word and `msg_len` = 3. -/
def abcIn (p : Phase) (hin : BitVec 3) : State := { base with PHASE := p, hin := hin, msgLen := 3#61, mem := abcMem }

/-- A view of the next state. -/
def after {α : Type} (o : Host.Outcome State Fault Refusal) (f : State → α) : Option α :=
  match o with
  | .next t => some (f t)
  | .fault _ => none
  | .refused _ => none

/-! ### Well-formedness and decoding -/

/-- The one check of an operation word is its width (30_encoding.md R60): a four-bit word is refused in either format. -/
theorem test_wellFormed_refuses_wide_words :
    OpWord.wellFormed ⟨.H, 0b1000⟩ = false ∧ OpWord.wellFormed ⟨.S, 0b1000⟩ = false ∧
    OpWord.wellFormed ⟨.H, 0b111⟩ = true ∧ OpWord.wellFormed ⟨.S, 0b111⟩ = true := by decide

theorem test_decode_rejects_by_name : decode ⟨.H, 0b1000⟩ = .error .widerThanThreeBits ∧
    decode ⟨.S, 0b1000⟩ = .error .widerThanThreeBits := by decide

/-- The words of 30_encoding.md section 7, format H, bit by bit. -/
theorem test_decode_host_words :
    decode ⟨.H, 0b000⟩ = .ok (.nop 0b0#1) ∧ decode ⟨.H, 0b001⟩ = .ok (.nop 0b1#1) ∧
    decode ⟨.H, 0b010⟩ = .ok .startSha256 ∧ decode ⟨.H, 0b011⟩ = .ok .startSha224 ∧
    decode ⟨.H, 0b100⟩ = .ok (.reset 0b00#2) ∧ decode ⟨.H, 0b101⟩ = .ok (.reset 0b01#2) ∧
    decode ⟨.H, 0b110⟩ = .ok (.reset 0b10#2) ∧ decode ⟨.H, 0b111⟩ = .ok (.reset 0b11#2) := by decide

/-- The words of 30_encoding.md section 7, format S, bit by bit. -/
theorem test_decode_sequencer_words :
    decode ⟨.S, 0b000⟩ = .ok .idle ∧ decode ⟨.S, 0b001⟩ = .ok .pad ∧ decode ⟨.S, 0b010⟩ = .ok .sched ∧
    decode ⟨.S, 0b011⟩ = .ok .winit ∧ decode ⟨.S, 0b100⟩ = .ok .round ∧ decode ⟨.S, 0b101⟩ = .ok .fold ∧
    decode ⟨.S, 0b110⟩ = .ok .format ∧ decode ⟨.S, 0b111⟩ = .ok .hold := by decide

/-- The dispatch table of 95_test_vectors.md section 3.1, all 64 entries: the rows `hin` 0 to 3, and RESET for the others. -/
theorem test_dispatch_table :
    (List.range 8).map (fun p => dispatch 0b000#3 (BitVec.ofNat 3 p)) =
      [.idle, .pad, .sched, .winit, .round, .fold, .format, .hold] ∧
    (List.range 8).map (fun p => dispatch 0b001#3 (BitVec.ofNat 3 p)) =
      [.idle, .pad, .sched, .winit, .round, .fold, .format, .hold] ∧
    (List.range 8).map (fun p => dispatch 0b010#3 (BitVec.ofNat 3 p)) =
      [.startSha256, .pad, .sched, .winit, .round, .fold, .format, .startSha256] ∧
    (List.range 8).map (fun p => dispatch 0b011#3 (BitVec.ofNat 3 p)) =
      [.startSha224, .pad, .sched, .winit, .round, .fold, .format, .startSha224] ∧
    ∀ lo : BitVec 2, ∀ p : BitVec 3, dispatch (0b1#1 ++ lo) p = .reset lo := by decide

/-- A word of the table is read as format S and run by the very next step (the host's two questions). -/
theorem test_withFetchWord_runs_the_word :
    (List.range 8).map (fun w => some (State.reset.withFetchWord 3 w).operation) =
      (List.range 8).map (decodeTableWord 3) := by decide

/-! ### Word functions (95_test_vectors.md section 2) -/

theorem test_add32 : add32 [0x5be0cd19#32, 0x3587272b#32, 0x1f85c98c#32, 0x428a2f98#32, 0x61626380#32] = 0x54da50e8#32 := by
  decide

theorem test_rotr_shr : rotr 0x6a09e667#32 13 = 0x333b504f#32 ∧ rotr 0x12345678#32 4 = 0x81234567#32 ∧
    shr 0x12345678#32 3 = 0x02468acf#32 := by decide

theorem test_ch_maj : Ch 0x510e527f#32 0x9b05688c#32 0x1f83d9ab#32 = 0x1f85c98c#32 ∧
    Maj 0x6a09e667#32 0xbb67ae85#32 0x3c6ef372#32 = 0x3a6fe667#32 := by decide

theorem test_sigmas : Sigma0 0x6a09e667#32 = 0xce20b47e#32 ∧ Sigma1 0x510e527f#32 = 0x3587272b#32 ∧
    sigma0 0x12345678#32 = 0xe7fce6ee#32 ∧ sigma1 0x61626380#32 = 0x7da86405#32 := by decide

/-! ### One step of each operation -/

/-- RESET in mid-run with `start` = 1, `PHASE` = ROUND, `J` = 12 (95_test_vectors.md P5, step 90). -/
theorem test_reset_wins : after (step { abcIn .round 0b110#3 with J := 12#6 }) (fun t => (t.PHASE, t.busy, t.done)) =
    some (.idle, false, false) := by decide

/-- NOP in ROUND performs the round (P5, steps 6 to 9: `J` advances). -/
theorem test_nop_performs_the_phase : after (exec (.nop 0b1#1) { abcAt .round with J := 3#6 }) (fun t => (t.PHASE, t.J)) =
    some (.round, 4#6) := by decide

/-- START_SHA256 from IDLE with `msg_len` = 3 (P1, step 1). -/
theorem test_startSha256 : after (step (abcIn .idle 0b010#3))
    (fun t => (t.PHASE, t.N, t.J, t.VARIANT, t.LEN)) = some (.pad, 0#56, 0#6, .sha256, 3#61) ∧
    after (step (abcIn .idle 0b010#3)) (fun t => (t.H[0], t.H[7], t.busy)) = some (0x6a09e667#32, 0x5be0cd19#32, true) := by
  decide

/-- START_SHA224 from DONE (P5, step 74), and presented while busy (P5, step 10). -/
theorem test_startSha224 : after (step (abcIn .done 0b011#3))
    (fun t => (t.PHASE, t.VARIANT, t.LEN, t.done, t.digestLen)) = some (.pad, .sha224, 3#61, false, 56#7) ∧
    after (step (abcIn .done 0b011#3)) (fun t => (t.H[0], t.H[7])) = some (0xc1059ed8#32, 0xbefa4fa4#32) := by decide

theorem test_start_while_busy : after (step { abcIn .round 0b011#3 with J := 4#6, LEN := 9#61 })
    (fun t => (t.PHASE, t.J, t.VARIANT, t.LEN)) = some (.round, 5#6, .sha256, 9#61) := by decide

/-- The host has one entry: a START of a 7-byte message, with two bytes stored before it. -/
def oneEntry : State := { base with host := [⟨0b010#3, 7#61, [⟨1#61, 0x62#8⟩, ⟨0#61, 0x61#8⟩]⟩] }

/-- IDLE changes nothing; the host's next entry arrives on the ports and in memory. -/
theorem test_idle : after (step oneEntry) (fun t => (t.PHASE, t.hin, t.msgLen)) = some (.idle, 0b010#3, 7#61) ∧
    after (step oneEntry) State.mem = some [(0, 0x61#8), (1, 0x62#8)] ∧
    after (step oneEntry) State.host = some [] := by decide

/-- PAD of "abc": buffer (b) of 95_test_vectors.md section 4.2, and the offsets read (P1, step 2). -/
theorem test_pad_abc : after (exec .pad (abcAt .pad))
    (fun t => (t.PHASE, t.BLK.toList.take 5, t.BLK[55], t.BLK[56], t.BLK[62], t.BLK[63])) =
    some (.sched, [0x61#8, 0x62#8, 0x63#8, 0x80#8, 0x00#8], 0x00#8, 0x00#8, 0x00#8, 0x18#8) ∧
    (abcAt .pad).memReadsOf .pad = [0, 1, 2] := by decide

/-- PAD of block 1 of a 56-byte message: no message byte, length field 01 c0 at the end (buffer (d)), nothing read. -/
theorem test_pad_second_block : after (exec .pad { base with PHASE := .pad, LEN := 56#61, N := 1#56 })
    (fun t => (t.BLK[0], t.BLK[55], t.BLK[61], t.BLK[62], t.BLK[63])) =
    some (0x00#8, 0x00#8, 0x00#8, 0x01#8, 0xc0#8) ∧
    ({ base with LEN := 56#61, N := 1#56 } : State).memReadsOf .pad = [] := by decide

/-- The padded block of "abc". -/
def abcBlock : Vector Byte 64 :=
  tabulate 64 fun i => if i = 0 then 0x61#8 else if i = 1 then 0x62#8 else if i = 2 then 0x63#8
    else if i = 3 then 0x80#8 else if i = 63 then 0x18#8 else 0x00#8

/-- SCHED of "abc": words of the table of 95_test_vectors.md section 5.1. -/
theorem test_sched_abc : after (exec .sched { abcAt .sched with BLK := abcBlock })
    (fun t => (t.PHASE, t.W[0], t.W[15], t.W[16], t.W[17], t.W[18], t.W[31], t.W[63])) =
    some (.winit, 0x61626380#32, 0x00000018#32, 0x61626380#32, 0x000f0000#32, 0x7da86405#32, 0xd3b7973b#32,
      0x12b1edeb#32) := by decide +kernel

/-- SCHED of the all-ones block, where carries are dropped (section 5.3). -/
theorem test_sched_ones : after (exec .sched { base with BLK := tabulate 64 fun _ => 0xff#8 })
    (fun t => (t.W[16], t.W[17], t.W[63])) = some (0x203ffffc#32, 0x203ffffc#32, 0x4bceaf09#32) := by
  decide +kernel

/-- WINIT copies the Hash State index to index and clears `J` (P1, step 4). -/
theorem test_winit : after (exec .winit { abcAt .winit with H := IV256, J := 5#6 }) (fun t => (t.PHASE, t.J, t.WK)) =
    some (.round, 0#6, ⟨0x6a09e667#32, 0xbb67ae85#32, 0x3c6ef372#32, 0xa54ff53a#32, 0x510e527f#32, 0x9b05688c#32,
      0x1f83d9ab#32, 0x5be0cd19#32⟩) := by decide

/-- ROUND `j` = 0 of "abc" (95_test_vectors.md section 6.1, first row). -/
theorem test_round_abc : after (exec .round { abcAt .round with
      WK := Work.ofVector IV256, W := tabulate 64 fun i => if i = 0 then 0x61626380#32 else 0#32 })
    (fun t => (t.PHASE, t.J, t.WK)) =
    some (.round, 1#6, ⟨0x5d6aebcd#32, 0x6a09e667#32, 0xbb67ae85#32, 0x3c6ef372#32, 0xfa2a4622#32, 0x510e527f#32,
      0x9b05688c#32, 0x1f83d9ab#32⟩) := by decide

/-- ROUND `j` = 63 of "abc" (section 6.1, last two rows): the registers wrap round to FOLD with `J` = 0. -/
theorem test_round_last : after (exec .round { abcAt .round with
      J := 63#6
      W := tabulate 64 fun i => if i = 63 then 0x12b1edeb#32 else 0#32
      WK := ⟨0xd39a2165#32, 0x04d24d6c#32, 0xb85e2ce9#32, 0xb6ae8fff#32, 0xfb121210#32, 0x948d25b6#32, 0x961f4894#32,
        0xb21bad3d#32⟩ })
    (fun t => (t.PHASE, t.J, t.WK.a, t.WK.b, t.WK.e, t.WK.h)) =
    some (.fold, 0#6, 0x506e3058#32, 0xd39a2165#32, 0x5ef50f24#32, 0x961f4894#32) := by decide

/-- FOLD of the one block of "abc" (section 6.1): the carries are dropped and FORMAT follows. -/
theorem test_fold_last : after (exec .fold { abcAt .fold with
      H := IV256
      WK := ⟨0x506e3058#32, 0xd39a2165#32, 0x04d24d6c#32, 0xb85e2ce9#32, 0x5ef50f24#32, 0xfb121210#32, 0x948d25b6#32,
        0x961f4894#32⟩ })
    (fun t => (t.PHASE, t.N, t.H.toList)) =
    some (.format, 0#56, [0xba7816bf#32, 0x8f01cfea#32, 0x414140de#32, 0x5dae2223#32,
      0xb00361a3#32, 0x96177a9c#32, 0xb410ff61#32, 0xf20015ad#32]) := by decide

/-- FOLD of the first of two blocks (P3, step 69: `N` = 1, PAD follows). -/
theorem test_fold_next : after (exec .fold { base with PHASE := .fold, LEN := 56#61 }) (fun t => (t.PHASE, t.N)) =
    some (.pad, 1#56) := by decide

/-- FORMAT, third and fourth rows of 95_test_vectors.md section 8.1: digits of words 1 and 3, and the tail by variant. -/
theorem test_format : after (exec .format { base with
      PHASE := .format
      H := tabulate 8 fun i => if i = 1 then 0x00000018#32 else if i = 3 then 0x89abcdef#32 else 0x00f00f00#32 })
    (fun t => (t.PHASE, (t.DIGEST_HEX.toList.drop 8).take 8, (t.DIGEST_HEX.toList.drop 24).take 8, t.DIGEST_HEX[58])) =
    some (.done, [0x30#8, 0x30#8, 0x30#8, 0x30#8, 0x30#8, 0x30#8, 0x31#8, 0x38#8],
      [0x38#8, 0x39#8, 0x61#8, 0x62#8, 0x63#8, 0x64#8, 0x65#8, 0x66#8], 0x66#8) := by decide

theorem test_format_sha224 : after (exec .format { base with PHASE := .format, VARIANT := .sha224 })
    (fun t => (t.PHASE, t.DIGEST_HEX[55], t.DIGEST_HEX[56], t.DIGEST_HEX[63], t.digestLen)) =
    some (.done, 0x30#8, 0x00#8, 0x00#8, 56#7) := by decide

/-- HOLD keeps the digest (P1, steps 71 to 73). -/
theorem test_hold : after (step { abcAt .done with DIGEST_HEX := tabulate 64 fun _ => 0x61#8 })
    (fun t => (t.PHASE, t.done, t.digestString)) = some (.done, true, some (List.replicate 64 0x61#8)) := by decide

/-- The padding lengths on both sides of the boundary (95_test_vectors.md section 4.1). -/
theorem test_padding_lengths :
    [0, 3, 55, 56, 63, 64, 119, 120, 2305843009213693951].map (fun L => (padZeros L, PLEN L, NBLK L)) =
      [(55, 64, 1), (52, 64, 1), (0, 64, 1), (63, 128, 2), (56, 128, 2), (55, 128, 2), (0, 128, 2), (63, 192, 3),
        (56, 2305843009213694016, 36028797018963969)] := by decide

/-! ### Witnesses: a state and operands that meet the hypotheses of each obligation -/

theorem test_witness_DecodeAndEncodeAgree :
    Instr.wellFormed (.reset 0b11#2) = true ∧ OpWord.wellFormed ⟨.S, 7⟩ = true ∧ OpWord.wellFormed ⟨.H, 8⟩ = false := by
  decide

/-- One state for each of the seven clauses. -/
theorem test_witness_DispatchChoosesTheOperation :
    rstBit (abcIn .pad 0b111#3).hin = true ∧
    (rstBit (abcIn .done 0b010#3).hin = false ∧ (abcIn .done 0b010#3).busy = false ∧
      startBit (abcIn .done 0b010#3).hin = true ∧ variantBit (abcIn .done 0b010#3).hin = false) ∧
    (rstBit (abcIn .idle 0b011#3).hin = false ∧ (abcIn .idle 0b011#3).busy = false ∧
      startBit (abcIn .idle 0b011#3).hin = true ∧ variantBit (abcIn .idle 0b011#3).hin = true) ∧
    (rstBit (abcIn .idle 0b001#3).hin = false ∧ startBit (abcIn .idle 0b001#3).hin = false) ∧
    (rstBit (abcIn .done 0b001#3).hin = false ∧ startBit (abcIn .done 0b001#3).hin = false) ∧
    (rstBit (abcIn .format 0b011#3).hin = false ∧ (abcIn .format 0b011#3).busy = true ∧ rstBit 0b001#3 = false) := by
  decide

theorem test_witness_StepRunsTheDispatchedOperation :
    dispatch (abcAt .idle).hin (abcAt .idle).PHASE.bits = .idle ∧ exec .idle (abcAt .idle) = .next (abcAt .idle) ∧
    (abcAt .idle).host = [] ∧ oneEntry.host = [⟨0b010#3, 7#61, [⟨1#61, 0x62#8⟩, ⟨0#61, 0x61#8⟩]⟩] ∧
    (∀ d ∈ oneEntry.host, ∀ st ∈ d.stores, st.offset.toNat ≠ 2) ∧
    (∀ x ∈ [(⟨0#61, 0x61#8⟩ : HostStore)], x.offset ≠ 1#61) := ⟨by decide, rfl, rfl, rfl, by decide, by decide⟩

/-- Two stores to one offset in one entry: the later one stays (20_memory.md R52 d). -/
theorem test_last_store_stays :
    after (step { base with host := [⟨0b000#3, 0#61, [⟨5#61, 0x01#8⟩, ⟨5#61, 0x02#8⟩]⟩] }) State.mem = some [(5, 0x02#8)] := by
  decide

theorem test_witness_ResetReturnsToIdle : rstBit (abcIn .round 0b110#3).hin = true := by decide

theorem test_witness_StartSha256BeginsAComputation :
    (abcIn .idle 0b010#3).PHASE = .idle ∧ rstBit (abcIn .idle 0b010#3).hin = false ∧
    startBit (abcIn .idle 0b010#3).hin = true ∧ variantBit (abcIn .idle 0b010#3).hin = false := by decide

theorem test_witness_StartSha224BeginsAComputation :
    (abcIn .done 0b011#3).PHASE = .done ∧ rstBit (abcIn .done 0b011#3).hin = false ∧
    startBit (abcIn .done 0b011#3).hin = true ∧ variantBit (abcIn .done 0b011#3).hin = true ∧
    after (exec .startSha256 (abcIn .done 0b011#3)) State.LEN = some 3#61 ∧
    after (exec .startSha224 (abcIn .done 0b011#3)) State.LEN = some 3#61 := by decide

theorem test_witness_StartWhileBusyIsIgnored :
    (abcIn .fold 0b011#3).busy = true ∧ rstBit (abcIn .fold 0b011#3).hin = false ∧
    after (step (abcIn .fold 0b011#3)) State.PHASE = some .format := by decide

/-- Two quiet host entries, then a START: the hypotheses hold for `k` = 2. -/
def waiting (p : Phase) : State := { abcAt p with host := [⟨0b000#3, 1#61, []⟩, ⟨0b001#3, 2#61, []⟩, ⟨0b010#3, 3#61, []⟩] }

theorem test_witness_IdleWaits : (waiting .idle).PHASE = .idle ∧ rstBit (waiting .idle).hin = false ∧
    startBit (waiting .idle).hin = false ∧ (waiting .idle).noResetFor 2 ∧ (waiting .idle).noStartFor 2 ∧
    after (step (waiting .idle)) State.PHASE = some .idle := by
  refine ⟨rfl, by decide, by decide, ?_, ?_, by decide⟩
  · unfold State.noResetFor
    decide
  · unfold State.noStartFor
    decide

theorem test_witness_HoldKeepsTheDigest : (waiting .done).PHASE = .done ∧ rstBit (waiting .done).hin = false ∧
    startBit (waiting .done).hin = false ∧ (waiting .done).noResetFor 2 ∧ (waiting .done).noStartFor 2 ∧
    after (step (abcIn .done 0b010#3)) State.PHASE = some .pad := by
  refine ⟨rfl, by decide, by decide, ?_, ?_, by decide⟩
  · unfold State.noResetFor
    decide
  · unfold State.noStartFor
    decide

/-- The four ranges of R102 at their ends, for L = 3: the last message byte, the marker, the first and last fill byte, the
first and last byte of the length field. -/
theorem test_witness_PadFillsTheBlock :
    (2 < 3 ∧ (abcAt .pad).mem.read 2 = some 0x63#8) ∧ ((abcAt .pad).LEN.toNat = 3) ∧
    (3 < 4 ∧ 4 + 8 < PLEN 3) ∧ (3 < 55 ∧ 55 + 8 < PLEN 3) ∧ (PLEN 3 ≤ 56 + 8 ∧ 56 < PLEN 3) ∧
    (PLEN 3 ≤ 63 + 8 ∧ 63 < PLEN 3) ∧ ¬ 56 + 8 < PLEN 3 := by decide

theorem test_witness_PadBlockIsTheMessagePadded :
    [0x61#8, 0x62#8, 0x63#8].length = (abcAt .pad).LEN.toNat ∧ (abcAt .pad).holdsMessage [0x61#8, 0x62#8, 0x63#8] ∧
    (abcAt .pad).N.toNat < NBLK (abcAt .pad).LEN.toNat := by
  refine ⟨rfl, ?_, by decide⟩
  unfold State.holdsMessage
  decide

theorem test_witness_PaddedMessageLayout :
    [0x61#8, 0x62#8, 0x63#8].length < 2 ^ 61 ∧ ([0x61#8, 0x62#8, 0x63#8].length + 1 + 52 + 8) % 64 = 0 := by decide

theorem test_witness_PaddingLengths : (119 + 1 + 0 + 8) % 64 = 0 ∧ 119 % 64 ≤ 55 ∧ 56 ≤ 120 % 64 ∧
    ([] : List Byte).length = 0 := by decide

/-- The last block of the longest message is inside the range of the padder's use. -/
theorem test_witness_PadderOutputs :
    (BitVec.ofNat 56 (2 ^ 55)).toNat < NBLK (BitVec.ofNat 61 (2 ^ 61 - 1)).toNat := by decide

theorem test_witness_RoundTransformsTheWorkingRegisters :
    after (exec .round { abcAt .round with J := 62#6 }) (fun t => (t.PHASE, t.J)) = some (.round, 63#6) ∧
    after (exec .round { abcAt .round with J := 63#6 }) (fun t => (t.PHASE, t.J)) = some (.fold, 0#6) := by decide

theorem test_witness_SixtyFourRoundsCompress : (abcAt .winit).PHASE = .winit ∧
    rstBit (abcAt .winit).hin = false ∧ (abcAt .winit).noResetFor 64 := by
  refine ⟨rfl, by decide, ?_⟩
  unfold State.noResetFor
  decide

/-- The last block of 55 bytes, the first of 56, and the last index FOLD can count to. -/
theorem test_witness_FoldAddsAndAdvances :
    0 + 1 = NBLK 55 ∧ 0 + 1 ≠ NBLK 56 ∧ 1 + 1 = NBLK 56 ∧ 2 ^ 55 + 1 = NBLK (2 ^ 61 - 1) ∧ 2 ^ 55 + 1 < 2 ^ 56 := by decide

/-- Word 7 is output for SHA-256 and not for SHA-224. -/
theorem test_witness_FormatRendersTheHashState : 7 < NW .sha256 ∧ NW .sha224 ≤ 7 ∧ 6 < NW .sha224 := by decide

theorem test_witness_Sha224DropsTheEighthWord :
    ∀ i, (h : i < 7) → (tabulate 8 fun _ => 0#32)[i] = (tabulate 8 fun i => if i = 7 then 1#32 else 0#32)[i] := by
  intro i h
  simp only [tabulate_getElem]
  rw [if_neg (by omega)]

/-- A state that has shown its digest and one in the middle of the rounds of "abc", both inside the invariant. -/
def shown : State := { abcAt .done with H := IV256, DIGEST_HEX := tabulate 64 (digestChar IV256 .sha256) }

def midRound : State :=
  { abcAt .round with
    H := IV256
    BLK := abcBlock
    W := expand abcBlock
    J := 1#6
    WK := roundsFrom (Work.ofVector IV256) (expand abcBlock) 1 }

theorem test_witness_ShownDigestIsWellFormed : shown.Inv ∧ ∃ str, shown.digestString = some str := by
  refine ⟨⟨by decide, ?_, ?_, ?_, ?_, ?_, ?_, fun _ => rfl⟩, _, rfl⟩
  · decide
  · decide
  · intro h
    exact absurd h (by decide)
  · intro h
    exact absurd h (by decide)
  · intro h
    exact absurd h (by decide)
  · intro h
    exact absurd h (by decide)

theorem abcBlock_padding : ∀ i : Fin 64, (3#61).toNat ≤ 64 * (0#56).toNat + i →
    abcBlock[i] = padByte 3#61 0x00#8 (64 * (0#56).toNat + i) := by decide

theorem test_witness_EveryStepKeepsTheInvariant : midRound.Inv ∧ after (step midRound) State.J = some 2#6 := by
  refine ⟨⟨by decide, by decide, by decide, ?_, fun _ => rfl, fun _ => rfl, ?_, ?_⟩, by decide⟩
  · intro _ i hi hL
    exact abcBlock_padding ⟨i, hi⟩ hL
  · intro h
    exact absurd h (by decide)
  · intro h
    exact absurd h (by decide)

/-- Two Hash States that differ only in the word SHA-224 drops show the same string. -/
theorem test_witness_DigestStringDeterminesTheWords :
    formatString (tabulate 8 fun _ => 0#32) .sha224 =
      formatString (tabulate 8 fun i => if i = 7 then 1#32 else 0#32) .sha224 := by decide

/-- The two ends of the amounts of RotrMovesEveryBit and ShrIsALogicalShift, and a permutation for Add32IsModularAddition. -/
theorem test_witness_word_function_ranges :
    (1 ≤ 1 ∧ 1 ≤ 31) ∧ (1 ≤ 31 ∧ 31 ≤ 31) ∧ rotr 0x00000001#32 1 = 0x80000000#32 ∧ rotr 0x80000000#32 31 = 0x00000001#32 ∧
    shr 0x80000000#32 31 = 1#32 ∧ [(1#32 : Word), 2#32].Perm [2#32, 1#32] := by decide

theorem test_witness_HexcharIsLowercaseAscii :
    (9#4).toNat ≤ 9 ∧ hexchar 9#4 = 0x39#8 ∧ 10 ≤ (10#4).toNat ∧ hexchar 10#4 = 0x61#8 ∧ hexchar 15#4 = 0x66#8 := by decide

theorem test_witness_FlagsFollowThePhase :
    after (step (abcIn .done 0b010#3)) (fun t => (t.busy, t.done)) = some (true, false) ∧ (abcIn .done 0b010#3).busy = false ∧
    after (step (abcAt .format)) (fun t => (t.busy, t.done)) = some (false, true) ∧ (abcAt .format).done = false ∧
    rstBit (abcIn .done 0b100#3).hin = true := by decide

/-- Each row of R148's table is some step's: `PHASE` and `J` after it. -/
theorem test_witness_NextPositionTable :
    [abcIn .idle 0b010#3, abcAt .idle, abcAt .done, abcAt .pad, abcAt .sched, abcAt .winit,
      { abcAt .round with J := 62#6 }, { abcAt .round with J := 63#6 }, { abcAt .fold with LEN := 56#61 }, abcAt .fold,
      abcAt .format, abcIn .sched 0b100#3].map (fun s => after (step s) State.PHASE) =
    [some .pad, some .idle, some .done, some .sched, some .winit, some .round, some .round, some .fold, some .pad,
      some .format, some .done, some .idle] := by decide

/-- "abc" in memory, START_SHA256 on the ports, a host that stays quiet: the hypotheses of the statements about a whole
computation, ComputationOperationSequence, ComputationTakesItsSteps, EveryComputationShowsAWellFormedDigest,
EveryMessageByteIsReadOnceInOrder and EndToEndDigestIsTheReference; the state it ends in has an empty host list, so NOP is on its ports for every later step. -/
theorem test_witness_whole_computation :
    (abcIn .idle 0b010#3).acceptsStart .sha256 ∧ (abcIn .done 0b011#3).acceptsStart .sha224 ∧
    [0x61#8, 0x62#8, 0x63#8].length = (abcIn .idle 0b010#3).msgLen.toNat ∧
    (abcIn .idle 0b010#3).holdsMessage [0x61#8, 0x62#8, 0x63#8] ∧
    (abcIn .idle 0b010#3).noResetFor (68 * NBLK 3 + 1) ∧
    (abcIn .idle 0b010#3).holdsMessageFor (68 * NBLK 3 + 1) [0x61#8, 0x62#8, 0x63#8] := by
  have hm : (abcIn .idle 0b010#3).holdsMessage [0x61#8, 0x62#8, 0x63#8] := by
    unfold State.holdsMessage
    decide
  refine ⟨⟨by decide, by decide, by decide, by decide⟩, ⟨by decide, by decide, by decide, by decide⟩, rfl, hm, ?_, ?_⟩
  · simp [State.noResetFor, abcIn, base]
  · exact holdsMessageFor_of_stores hm (by simp [abcIn, base])

/-- A host that stores the byte already there at offset 1 and another one beyond the message is inside R152 too. -/
def rewriting : State := { abcIn .idle 0b010#3 with host := [⟨0b001#3, 0#61, [⟨1#61, 0x62#8⟩, ⟨3#61, 0xff#8⟩]⟩] }

theorem test_witness_EndToEndDigestIsTheReference_with_stores :
    rewriting.acceptsStart .sha256 ∧ rewriting.noResetFor (68 * NBLK 3 + 1) ∧
    rewriting.holdsMessageFor (68 * NBLK 3 + 1) [0x61#8, 0x62#8, 0x63#8] := by
  refine ⟨⟨by decide, by decide, by decide, by decide⟩, ?_, holdsMessageFor_of_stores ?_ ?_⟩
  · simp [State.noResetFor, rewriting, NBLK, rstBit]
  · unfold State.holdsMessage
    decide
  · simp [rewriting, NBLK]

/-- Another memory that agrees on the bytes read and differs elsewhere. -/
theorem test_witness_OnlyPadReadsMemory :
    (∀ p ∈ (abcAt .pad).memReadsOf .pad, Memory.read (abcMem.write 9 0xff#8) p = (abcAt .pad).mem.read p) ∧
    abcMem.write 9 0xff#8 ≠ abcMem ∧ (abcAt .idle).busy = false ∧ (abcAt .round).PHASE ≠ .pad := by decide

theorem test_witness_TheCoreNeverWritesMemory :
    (∀ d ∈ (waiting .pad).host.head?, ∀ st ∈ d.stores, st.offset.toNat ≠ 0) ∧
    after (step (waiting .pad)) State.PHASE = some .sched := by decide

theorem test_witness_MemoryIsCanonicalAndReadsBack :
    Memory.wf abcMem ∧ 1 < addressSpace ∧ Memory.wf [(0, 0x61#8), (1, 0xff#8), (2, 0x63#8)] ∧
    abcMem.write 1 0xff#8 = [(0, 0x61#8), (1, 0xff#8), (2, 0x63#8)] := by decide

/-- Two machines with different registers on the same ports and memory. -/
theorem test_witness_NothingIsLeftOverFromEarlierComputations :
    (abcIn .idle 0b010#3).acceptsStart .sha256 ∧ { shown with hin := 0b010#3, msgLen := 3#61 }.acceptsStart .sha256 ∧
    SamePorts (abcIn .idle 0b010#3) { shown with hin := 0b010#3, msgLen := 3#61 } ∧
    { shown with hin := 0b010#3, msgLen := 3#61 }.mem = (abcIn .idle 0b010#3).mem :=
  ⟨⟨by decide, by decide, by decide, by decide⟩, ⟨by decide, by decide, by decide, by decide⟩, ⟨rfl, rfl, rfl, rfl⟩, rfl⟩

end Sys2Proof.Tests
end

section
/-! Scope (00_scope.md): what stands between two steps, and that every operation completes. -/

namespace Sys2Proof.Machine

/-! ### The end of a step -/

theorem sameReg_endStep (s : State) (r : Reg) : SameReg s s.endStep r := by
  cases r <;> simp [SameReg]

/-- Of the host's stores to one offset, the last one stays (20_memory.md R52 d). -/
theorem Memory.read_storeAll_last {m : Memory} {earlier later : List HostStore} {st : HostStore}
    (h : ∀ x ∈ later, x.offset ≠ st.offset) :
    (m.storeAll (earlier ++ st :: later)).read st.offset.toNat = some st.byte := by
  have hlater : ∀ x ∈ later, x.offset.toNat ≠ st.offset.toNat :=
    fun x hx e => h x hx (BitVec.eq_of_toNat_eq e)
  calc (m.storeAll (earlier ++ st :: later)).read st.offset.toNat
      = ((m.storeAll earlier).storeAll (st :: later)).read st.offset.toNat := by rw [Memory.storeAll_append]
    _ = ((m.storeAll earlier).write st.offset.toNat st.byte).read st.offset.toNat :=
        Memory.read_storeAll_other hlater
    _ = some st.byte := Memory.read_write_same _ _ _

/-- Settles O5: the step is `exec` of the dispatched operation followed by `endStep`, which touches no register and whose
effect on the ports and the memory is the host's entry. -/
theorem stepRunsTheDispatchedOperation : Obligations.StepRunsTheDispatchedOperation := by
  refine ⟨?dispatched, fun s => ⟨sameReg_endStep s, s.endStep_draw⟩, ?noEntry, ?entry⟩
  case dispatched =>
    rintro s t _ rfl hexec
    exact step_of_exec hexec
  case noEntry =>
    intro s hhost
    obtain ⟨hhin, hlen, hmem, hrest⟩ := State.endStep_of_nil hhost
    exact ⟨hhin, hlen, hrest, fun p => by rw [hmem]⟩
  case entry =>
    intro s d rest hhost
    obtain ⟨hhin, hlen, hmem, hrest⟩ := State.endStep_of_cons hhost
    rw [hmem]
    refine ⟨hhin, hlen, hrest, fun p hp => Memory.read_storeAll_other hp, ?_⟩
    intro earlier st later hstores hlast
    rw [hstores]
    exact Memory.read_storeAll_last hlast

/-! ### Every operation completes -/

/-- A START completes whether it is accepted or ignored (45_core_sequencer.md R141, R142, R151). -/
theorem start_or_performSequencer_next (s : State) (v : Variant) :
    ∃ t, (if s.busy then performSequencer s else .next (s.start v)) = .next t := by
  split
  · exact performSequencer_next s
  · exact ⟨_, rfl⟩

theorem exec_next (i : Instr) (s : State) : ∃ t, exec i s = .next t := by
  cases i with
  | nop => exact performSequencer_next s
  | startSha256 => exact start_or_performSequencer_next s .sha256
  | startSha224 => exact start_or_performSequencer_next s .sha224
  | reset | idle | pad | sched | winit | round | fold | format | hold => exact ⟨_, rfl⟩

theorem step_next (s : State) : ∃ t, step s = .next t := by
  obtain ⟨t, hexec⟩ := exec_next s.operation s
  exact ⟨t.endStep, step_of_exec hexec⟩

/-- Settles O7: NOP and an ignored START perform the phase's sequencer operation, every other operation is a chain of register
writes, and a step is `exec` of one operation. -/
theorem everyOperationCompletes : Obligations.EveryOperationCompletes :=
  ⟨exec_next, step_next⟩

end Sys2Proof.Machine
end

section
/-! The flags (10_state.md R24) and the state after reset (R28). -/

namespace Sys2Proof.Machine

@[simp] theorem State.setPHASE_busy (s : State) (p : Phase) : (s.setPHASE p).busy = phaseBusy p := rfl
@[simp] theorem State.setPHASE_done (s : State) (p : Phase) : (s.setPHASE p).done = decide (p = .done) := rfl
@[simp] theorem State.start_busy (s : State) (v : Variant) : (s.start v).busy = true := rfl
@[simp] theorem State.start_done (s : State) (v : Variant) : (s.start v).done = false := rfl
@[simp] theorem State.endStep_busy (s : State) : s.endStep.busy = s.busy := by simp [State.busy_eq]
@[simp] theorem State.endStep_done (s : State) : s.endStep.done = s.done := by simp [State.done_eq]

theorem step_unique {s t u : State} (ht : step s = .next t) (hu : step s = .next u) : t = u :=
  Host.Outcome.next.inj (ht.symm.trans hu)

/-- What the two flags say of the phase. -/
theorem State.flags_iff_phase (s : State) :
    (s.busy = true ↔ s.PHASE = .pad ∨ s.PHASE = .sched ∨ s.PHASE = .winit ∨ s.PHASE = .round ∨ s.PHASE = .fold ∨
      s.PHASE = .format) ∧
    (s.done = true ↔ s.PHASE = .done) ∧ ¬ (s.busy = true ∧ s.done = true) ∧
    (s.busy = false ∧ s.done = false ↔ s.PHASE = .idle) := by
  rw [State.busy_eq, State.done_eq]
  cases s.PHASE <;> decide

/-- FORMAT is no host command: the step performs it exactly in its phase, outside RESET (30_encoding.md R62, R65). -/
theorem operation_eq_format_iff (s : State) : s.operation = .format ↔ rstBit s.hin = false ∧ s.PHASE = .format := by
  unfold State.operation
  generalize s.hin = hin
  cases s.PHASE <;> revert hin <;> decide

theorem acceptsStart_of_busy_rises {s t : State} (h : step s = .next t) (hs : s.busy = false) (ht : t.busy = true) :
    ∃ v, s.acceptsStart v := by
  cases hr : rstBit s.hin with
  | true =>
    obtain rfl := step_unique h (step_reset hr)
    simp [phaseBusy] at ht
  | false =>
    cases hst : startBit s.hin with
    | true => exact ⟨_, hr, hst, rfl, hs⟩
    | false =>
      obtain rfl := step_unique h (step_wait hs hr hst)
      simp [hs] at ht

theorem operation_of_done_rises {s t : State} (h : step s = .next t) (hs : s.done = false) (ht : t.done = true) :
    s.operation = .format := by
  rcases step_cases h with ⟨-, rfl⟩ | ⟨v, -, rfl⟩ | ⟨hr, ⟨-, -, rfl⟩ | ⟨-, rfl⟩ | ⟨-, rfl⟩ | ⟨-, rfl⟩ | ⟨-, rfl⟩ |
    ⟨-, -, rfl⟩ | ⟨-, -, rfl⟩ | ⟨hp, -⟩⟩
  · simp at ht
  · simp at ht
  · simp [hs] at ht
  · simp at ht
  · simp at ht
  · simp at ht
  · split at ht <;> simp at ht
  · simp at ht
  · simp at ht
  · exact (operation_eq_format_iff s).2 ⟨hr, hp⟩

/-- Settles O39: the flags are functions of `PHASE`, and each kind of step says which phase it leaves. -/
theorem flagsFollowThePhase : Obligations.FlagsFollowThePhase := by
  refine ⟨State.flags_iff_phase, fun s t h => ⟨fun ht hs => acceptsStart_of_busy_rises h hs ht,
    fun ht hs => operation_of_done_rises h hs ht, ?start, ?format, ?reset⟩⟩
  case start =>
    intro v hv
    obtain rfl := step_unique h (step_start hv)
    simp
  case format =>
    intro hop
    obtain ⟨hr, hp⟩ := (operation_eq_format_iff s).1 hop
    obtain rfl := step_unique h (step_format hr hp)
    simp [phaseBusy]
  case reset =>
    intro hr
    obtain rfl := step_unique h (step_reset hr)
    simp [phaseBusy]

/-- Settles O9: nothing is read outside PAD. -/
theorem resetStateIsIdle : Obligations.ResetStateIsIdle :=
  ⟨rfl, rfl, rfl, memReads_of_phase_ne_pad (by simp [State.reset])⟩

end Sys2Proof.Machine
end

section
/-! The constant tables (10_state.md R21 to R23): every bound is a comparison of numbers. -/

namespace Sys2Proof.Machine

/-- The first 64 primes. -/
def first64Primes : List Nat :=
  [2, 3, 5, 7, 11, 13, 17, 19, 23, 29, 31, 37, 41, 43, 47, 53, 59, 61, 67, 71, 73, 79, 83, 89, 97, 101, 103, 107, 109, 113,
    127, 131, 137, 139, 149, 151, 157, 163, 167, 173, 179, 181, 191, 193, 197, 199, 211, 223, 227, 229, 233, 239, 241, 251,
    257, 263, 269, 271, 277, 281, 283, 293, 307, 311]

/-- The square roots of the 9th to 16th primes with 32 fraction bits: what stands before the bits that `IV224` shows. -/
def sqrtHeads : Vector Nat 8 :=
  ⟨#[0x4cbbb9d5d, 0x5629a292a, 0x59159015a, 0x6152fecd8, 0x667332667, 0x68eb44a87, 0x6db0c2e0d, 0x747b5481d], rfl⟩

theorem filter_range_eq_first64Primes :
    ((List.range 312).filter fun p =>
      decide (2 ≤ p) && (List.range p).all fun d => decide (d < 2) || p % d != 0) = first64Primes := by
  decide +kernel

theorem K_isCubeRootFraction : ∀ j : Fin 64, ∃ n : Fin 8,
    (n * 2 ^ 32 + K[j].toNat) ^ 3 ≤ first64Primes.getD j 0 * 2 ^ 96 ∧
    first64Primes.getD j 0 * 2 ^ 96 < (n * 2 ^ 32 + K[j].toNat + 1) ^ 3 := by
  decide +kernel

theorem IV256_isSquareRootFraction : ∀ i : Fin 8, ∃ n : Fin 8,
    (n * 2 ^ 32 + IV256[i].toNat) ^ 2 ≤ first64Primes.getD i 0 * 2 ^ 64 ∧
    first64Primes.getD i 0 * 2 ^ 64 < (n * 2 ^ 32 + IV256[i].toNat + 1) ^ 2 := by
  decide

theorem IV224_isSquareRootTail : ∀ i : Fin 8, sqrtHeads[i] / 2 ^ 32 < 8 ∧
    ((sqrtHeads[i] / 2 ^ 32 * 2 ^ 32 + sqrtHeads[i] % 2 ^ 32) * 2 ^ 32 + IV224[i].toNat) ^ 2 ≤
      first64Primes.getD (8 + i) 0 * 2 ^ 128 ∧
    first64Primes.getD (8 + i) 0 * 2 ^ 128 <
      ((sqrtHeads[i] / 2 ^ 32 * 2 ^ 32 + sqrtHeads[i] % 2 ^ 32) * 2 ^ 32 + IV224[i].toNat + 1) ^ 2 := by
  decide

/-- Settles O38: the bounds are finite facts about the tables, with the head of each square root given for `IV224`. -/
theorem constantsAreRootsOfPrimes : Obligations.ConstantsAreRootsOfPrimes := by
  unfold Obligations.ConstantsAreRootsOfPrimes
  rw [filter_range_eq_first64Primes]
  refine ⟨rfl, K_isCubeRootFraction, IV256_isSquareRootFraction, fun i => ?_⟩
  obtain ⟨hn, hlow, hhigh⟩ := IV224_isSquareRootTail i
  exact ⟨_, _, hn, Nat.mod_lt _ (by norm_num), hlow, hhigh⟩

end Sys2Proof.Machine
end

section
/-! The invariant of Safety.lean: it holds after RESET, and each operation keeps it. -/

namespace Sys2Proof.Machine

/-! ### The invariant, one operation at a time -/

/-- In IDLE the invariant asks only for a canonical memory: no register is specified there (10_state.md R28). -/
theorem State.Inv.of_idle {s : State} (hm : s.mem.wf) (hp : s.PHASE = .idle) : s.Inv where
  memory := hm
  block := by simp [State.busy_eq, hp, phaseBusy]
  round := by simp [State.busy_eq, hp, phaseBusy]
  padding := by simp [hp]
  schedule := by simp [hp]
  rounds := by simp [hp]
  compressed := by simp [hp]
  digest := by simp [hp]

/-- Settles O49: RESET leaves `PHASE` IDLE and the memory as it was. -/
theorem invariantHoldsAtReset : Obligations.InvariantHoldsAtReset := by
  refine ⟨State.Inv.of_idle Memory.wf_nil rfl, fun s t ignored hm ht => ?_⟩
  obtain rfl : s.drawRegisters.setPHASE .idle = t := Host.Outcome.next.inj ht
  exact State.Inv.of_idle hm rfl

/-- What the host presents and stores keeps the invariant: it reaches no register, and its stores are canonical. -/
theorem State.Inv.endStep {s : State} (h : s.Inv) : s.endStep.Inv where
  memory := State.endStep_mem_wf h.memory
  block := by simpa using h.block
  round := by simpa using h.round
  padding := by simpa using h.padding
  schedule := by simpa using h.schedule
  rounds := by simpa using h.rounds
  compressed := by simpa using h.compressed
  digest := by simpa using h.digest

theorem NBLK_pos (L : Nat) : 0 < NBLK L := Nat.succ_pos _

/-- At PAD no register but `N` and `J` is constrained: what START and FOLD have to provide (45_core_sequencer.md R148). -/
theorem State.Inv.of_pad {s : State} (hm : s.mem.wf) (hp : s.PHASE = .pad) (hN : s.N.toNat < NBLK s.LEN.toNat)
    (hJ : s.J = 0#6) : s.Inv where
  memory := hm
  block _ := hN
  round _ _ := hJ
  padding := by simp [hp]
  schedule := by simp [hp]
  rounds := by simp [hp]
  compressed := by simp [hp]
  digest := by simp [hp]

theorem State.Inv.start {s : State} (h : s.Inv) (v : Variant) : (s.start v).Inv :=
  .of_pad h.memory rfl (NBLK_pos _) rfl

/-- A block below `NBLK` lies inside the Padded Buffer (41_padder.md R101). -/
theorem lt_PLEN_of_lt_NBLK {L n i : Nat} (hn : n < NBLK L) (hi : i < 64) : 64 * n + i < PLEN L := by
  unfold NBLK at hn
  unfold PLEN
  omega

/-- From `LEN` to the end of the Padded Buffer a byte is fixed by the length alone (41_padder.md R102). -/
theorem padByte_eq_of_le {len : BitVec 61} {i : Nat} (hlen : len.toNat ≤ i) (hi : i < PLEN len.toNat) (m m' : Byte) :
    padByte len m i = padByte len m' i := by
  have hmsg : ¬ i < len.toNat := by omega
  simp [padByte, hmsg, hi]

theorem State.Inv.pad {s : State} (h : s.Inv) (hp : s.PHASE = .pad) :
    ((s.setBLK (sha256Padder s.LEN s.N s.padderBytes).blk).setPHASE .sched).Inv where
  memory := h.memory
  block _ := h.block (busy_of_phase hp)
  round _ _ := h.round (busy_of_phase hp) (by simp [hp])
  padding _ i hi hL := by
    have hN : s.N.toNat < NBLK s.LEN.toNat := h.block (busy_of_phase hp)
    simpa [sha256Padder, hi] using padByte_eq_of_le hL (lt_PLEN_of_lt_NBLK hN hi) _ _
  schedule := by simp
  rounds := by simp
  compressed := by simp
  digest := by simp

theorem State.Inv.sched {s : State} (h : s.Inv) (hp : s.PHASE = .sched) :
    ((s.setW (expand s.BLK)).setPHASE .winit).Inv := by
  -- a variable for the schedule, or Lean evaluates the recurrence when it checks the fields
  generalize hw : expand s.BLK = w
  exact {
    memory := h.memory
    block := fun _ => h.block (busy_of_phase hp)
    round := fun _ _ => h.round (busy_of_phase hp) (by simp [hp])
    padding := fun _ => h.padding (by simp [hp])
    schedule := fun _ => hw.symm
    rounds := by simp
    compressed := by simp
    digest := by simp }

theorem State.Inv.winit {s : State} (h : s.Inv) (hp : s.PHASE = .winit) :
    (((s.setWK (Work.ofVector s.H)).setJ 0#6).setPHASE .round).Inv where
  memory := h.memory
  block _ := h.block (busy_of_phase hp)
  round _ _ := rfl
  padding _ := h.padding (by simp [hp])
  schedule _ := h.schedule (by simp [hp])
  rounds _ := rfl
  compressed := by simp
  digest := by simp

/-- A round whose index is in `J` is one more round of the sequence (43_compressor_round.md R123). -/
theorem sha256Round_roundsFrom (r : Work) (w : Vector Word 64) (j : BitVec 6) :
    sha256Round (roundsFrom r w j.toNat) (kAt j) (wAt w j) = roundsFrom r w (j.toNat + 1) := by
  simp [roundsFrom]

theorem State.Inv.roundStep {s : State} (h : s.Inv) (hp : s.PHASE = .round) :
    (((s.setWK (sha256Round s.WK (kAt s.J) (wAt s.W s.J))).setJ
      (BitVec.ofNat 6 ((s.J.toNat + 1) % 64))).setPHASE (if s.J = 63#6 then .fold else .round)).Inv := by
  have hWK : sha256Round s.WK (kAt s.J) (wAt s.W s.J) = roundsFrom (Work.ofVector s.H) s.W (s.J.toNat + 1) := by
    rw [h.rounds hp, sha256Round_roundsFrom]
  have hN : s.N.toNat < NBLK s.LEN.toNat := h.block (busy_of_phase hp)
  rw [hWK]
  by_cases hJ : s.J = 63#6
  · rw [if_pos hJ]
    exact {
      memory := h.memory
      block := fun _ => hN
      round := fun _ _ => by simp [hJ]
      padding := fun _ => h.padding (by simp [hp])
      schedule := fun _ => h.schedule (by simp [hp])
      rounds := by simp
      compressed := fun _ => by simp [hJ, compress]
      digest := by simp }
  · rw [if_neg hJ]
    have hlt : s.J.toNat + 1 < 64 := by bv_omega
    exact {
      memory := h.memory
      block := fun _ => hN
      round := fun _ hr => absurd rfl hr
      padding := fun _ => h.padding (by simp [hp])
      schedule := fun _ => h.schedule (by simp [hp])
      rounds := fun _ => by simp [Nat.mod_eq_of_lt hlt]
      compressed := by simp
      digest := by simp }

theorem State.Inv.fold_last {s : State} (h : s.Inv) (hp : s.PHASE = .fold) :
    ((s.setH (foldHash s.H s.WK)).setPHASE .format).Inv where
  memory := h.memory
  block _ := h.block (busy_of_phase hp)
  round _ _ := h.round (busy_of_phase hp) (by simp [hp])
  padding := by simp
  schedule := by simp
  rounds := by simp
  compressed := by simp
  digest := by simp

theorem State.Inv.fold_next {s : State} (h : s.Inv) (hp : s.PHASE = .fold) (hl : s.N.toNat + 1 ≠ NBLK s.LEN.toNat) :
    (((s.setH (foldHash s.H s.WK)).setN (BitVec.ofNat 56 (s.N.toNat + 1))).setPHASE .pad).Inv := by
  have hN : s.N.toNat < NBLK s.LEN.toNat := h.block (busy_of_phase hp)
  have hfit : s.N.toNat + 1 < 2 ^ 56 := by
    have := NBLK_le s.LEN
    omega
  refine .of_pad h.memory rfl ?_ (h.round (busy_of_phase hp) (by simp [hp]))
  show (BitVec.ofNat 56 (s.N.toNat + 1)).toNat < NBLK s.LEN.toNat
  rw [BitVec.toNat_ofNat, Nat.mod_eq_of_lt hfit]
  omega

theorem State.Inv.format {s : State} (h : s.Inv) :
    ((s.setDIGEST_HEX (sha256DigestFormatter s.H s.VARIANT).hex).setPHASE .done).Inv where
  memory := h.memory
  block := by simp [phaseBusy]
  round := by simp [phaseBusy]
  padding := by simp
  schedule := by simp
  rounds := by simp
  compressed := by simp
  digest _ := rfl

/-- Settles O50: each operation keeps the invariant, and so does what the host does after it. -/
theorem everyStepKeepsTheInvariant : Obligations.EveryStepKeepsTheInvariant := by
  intro s t h hstep
  rcases step_cases hstep with ⟨-, rfl⟩ | ⟨v, -, rfl⟩ | ⟨-, ⟨-, -, rfl⟩ | ⟨hp, rfl⟩ | ⟨hp, rfl⟩ | ⟨hp, rfl⟩ | ⟨hp, rfl⟩ |
    ⟨hp, -, rfl⟩ | ⟨hp, hl, rfl⟩ | ⟨-, rfl⟩⟩
  · exact (State.Inv.of_idle (s := s.drawRegisters.setPHASE .idle) h.memory rfl).endStep
  · exact (h.start v).endStep
  · exact h.endStep
  · exact (h.pad hp).endStep
  · exact (h.sched hp).endStep
  · exact (h.winit hp).endStep
  · exact (h.roundStep hp).endStep
  · exact (h.fold_last hp).endStep
  · exact (h.fold_next hp hl).endStep
  · exact h.format.endStep

end Sys2Proof.Machine
end

section
/-! Nothing is left over (10_state.md R30, R32): in each phase only the live registers can influence what the host sees later,
and an accepted START writes all of those that are live in PAD. -/

namespace Sys2Proof.Machine

/-- The two states agree on the registers live in a phase: those whose content is used there or in a later phase before it is
written again. In IDLE there is none, and in DONE only those of the shown digest. -/
def SameLive : Phase → State → State → Prop
  | .idle, _, _ => True
  | .pad, s, t => t.N = s.N ∧ t.VARIANT = s.VARIANT ∧ t.LEN = s.LEN ∧ t.H = s.H
  | .sched, s, t => t.N = s.N ∧ t.VARIANT = s.VARIANT ∧ t.LEN = s.LEN ∧ t.H = s.H ∧ t.BLK = s.BLK
  | .winit, s, t => t.N = s.N ∧ t.VARIANT = s.VARIANT ∧ t.LEN = s.LEN ∧ t.H = s.H ∧ t.W = s.W
  | .round, s, t =>
    t.N = s.N ∧ t.VARIANT = s.VARIANT ∧ t.LEN = s.LEN ∧ t.H = s.H ∧ t.W = s.W ∧ t.J = s.J ∧ t.WK = s.WK
  | .fold, s, t => t.N = s.N ∧ t.VARIANT = s.VARIANT ∧ t.LEN = s.LEN ∧ t.H = s.H ∧ t.WK = s.WK
  | .format, s, t => t.VARIANT = s.VARIANT ∧ t.H = s.H
  | .done, s, t => t.VARIANT = s.VARIANT ∧ t.DIGEST_HEX = s.DIGEST_HEX

/-- The end of a step keeps every register. -/
@[simp] theorem sameLive_endStep (p : Phase) (s t : State) : SameLive p s.endStep t.endStep ↔ SameLive p s t := by
  cases p <;> simp [SameLive]

/-- Two machines the host cannot tell apart: same phase, same live registers, same host and memory. -/
structure Indistinguishable (s t : State) : Prop where
  phase : t.PHASE = s.PHASE
  live : SameLive s.PHASE s t
  ports : SamePorts s t
  mem : t.mem = s.mem

namespace Indistinguishable

variable {s t : State}

theorem live_of_phase (h : Indistinguishable s t) {p : Phase} (hp : s.PHASE = p) : SameLive p s t := hp ▸ h.live

theorem phase_of_phase (h : Indistinguishable s t) {p : Phase} (hp : s.PHASE = p) : t.PHASE = p := h.phase.trans hp

/-! ### What the host sees -/

theorem busy_eq (h : Indistinguishable s t) : s.busy = t.busy := by
  rw [State.busy_eq, State.busy_eq, h.phase]

theorem done_eq (h : Indistinguishable s t) : s.done = t.done := by
  rw [State.done_eq, State.done_eq, h.phase]

theorem digest_eq (h : Indistinguishable s t) (hd : s.done = true) :
    s.digestLen = t.digestLen ∧ s.digestHex = t.digestHex := by
  obtain ⟨hV, hX⟩ := h.live_of_phase (p := .done) (by simpa [State.done_eq] using hd)
  exact ⟨by rw [State.digestLen, State.digestLen, hV], hX.symm⟩

theorem digestString_eq (h : Indistinguishable s t) : s.digestString = t.digestString := by
  unfold State.digestString
  rw [← h.done_eq]
  split
  · next hd =>
    obtain ⟨hlen, hhex⟩ := h.digest_eq hd
    rw [hlen, hhex]
  · rfl

theorem operation_eq (h : Indistinguishable s t) : s.operation = t.operation := by
  obtain ⟨hhin, -⟩ := h.ports
  rw [State.operation, State.operation, hhin, h.phase]

theorem memReads_eq (h : Indistinguishable s t) : s.memReads = t.memReads := by
  by_cases hp : s.PHASE = .pad
  · obtain ⟨hN, -, hL, -⟩ := h.live_of_phase hp
    rw [State.memReads, State.memReads, h.operation_eq]
    cases t.operation with
    | pad => rw [State.memReadsOf, State.memReadsOf, hL, hN]
    | reset | nop | startSha256 | startSha224 | idle | sched | winit | round | fold | format | hold => rfl
  · rw [memReads_of_phase_ne_pad hp, memReads_of_phase_ne_pad (h.phase ▸ hp)]

/-! ### The operations -/

/-- The host's next entry, the same for both, keeps them indistinguishable. -/
theorem endStep (h : Indistinguishable s t) : Indistinguishable s.endStep t.endStep := by
  obtain ⟨hhin, hlen, hhost, hdraw⟩ := h.ports
  cases hs : s.host with
  | nil =>
    obtain ⟨shin, slen, smem, shost⟩ := State.endStep_of_nil hs
    obtain ⟨thin, tlen, tmem, thost⟩ := State.endStep_of_nil (hhost.trans hs)
    exact ⟨by simp [h.phase], by simpa using h.live, by simp [SamePorts, *], by rw [smem, tmem, h.mem]⟩
  | cons d rest =>
    obtain ⟨shin, slen, smem, shost⟩ := State.endStep_of_cons hs
    obtain ⟨thin, tlen, tmem, thost⟩ := State.endStep_of_cons (hhost.trans hs)
    exact ⟨by simp [h.phase], by simpa using h.live, by simp [SamePorts, *], by rw [smem, tmem, h.mem]⟩

/-- A RESET draws unrelated values for the two machines; none of them is live. -/
theorem reset (hports : SamePorts s t) (hmem : t.mem = s.mem) :
    Indistinguishable (s.drawRegisters.setPHASE .idle) (t.drawRegisters.setPHASE .idle) :=
  ⟨rfl, trivial, hports, hmem⟩

/-- A START asks for nothing but the same ports and memory: it writes every register live in PAD. -/
theorem start (hports : SamePorts s t) (hmem : t.mem = s.mem) (v : Variant) :
    Indistinguishable (s.start v) (t.start v) := by
  have ⟨_, hlen, _⟩ := hports
  exact ⟨rfl, ⟨rfl, rfl, hlen, rfl⟩, hports, hmem⟩

theorem padderBytes_eq (h : Indistinguishable s t) (hp : s.PHASE = .pad) : t.padderBytes = s.padderBytes := by
  obtain ⟨hN, -, hL, -⟩ := h.live_of_phase hp
  obtain ⟨-, -, -, hdraw⟩ := h.ports
  simp only [State.padderBytes, State.memRead, hN, hL, h.mem, hdraw]

theorem pad (h : Indistinguishable s t) (hp : s.PHASE = .pad) :
    Indistinguishable ((s.setBLK (sha256Padder s.LEN s.N s.padderBytes).blk).setPHASE .sched)
      ((t.setBLK (sha256Padder t.LEN t.N t.padderBytes).blk).setPHASE .sched) := by
  obtain ⟨hN, hV, hL, hH⟩ := h.live_of_phase hp
  refine ⟨rfl, ⟨hN, hV, hL, hH, ?_⟩, h.ports, h.mem⟩
  simp only [State.setPHASE_BLK, State.setBLK_BLK, hL, hN, h.padderBytes_eq hp]

theorem sched (h : Indistinguishable s t) (hp : s.PHASE = .sched) :
    Indistinguishable ((s.setW (expand s.BLK)).setPHASE .winit) ((t.setW (expand t.BLK)).setPHASE .winit) := by
  obtain ⟨hN, hV, hL, hH, hB⟩ := h.live_of_phase hp
  rw [hB]
  -- a variable for the schedule, or Lean evaluates the recurrence when it checks the fields
  generalize expand s.BLK = w
  exact ⟨rfl, ⟨hN, hV, hL, hH, rfl⟩, h.ports, h.mem⟩

theorem winit (h : Indistinguishable s t) (hp : s.PHASE = .winit) :
    Indistinguishable (((s.setWK (Work.ofVector s.H)).setJ 0#6).setPHASE .round)
      (((t.setWK (Work.ofVector t.H)).setJ 0#6).setPHASE .round) := by
  obtain ⟨hN, hV, hL, hH, hW⟩ := h.live_of_phase hp
  exact ⟨rfl, ⟨hN, hV, hL, hH, hW, rfl, congrArg Work.ofVector hH⟩, h.ports, h.mem⟩

theorem round (h : Indistinguishable s t) (hp : s.PHASE = .round) :
    Indistinguishable
      (((s.setWK (sha256Round s.WK (kAt s.J) (wAt s.W s.J))).setJ
        (BitVec.ofNat 6 ((s.J.toNat + 1) % 64))).setPHASE (if s.J = 63#6 then .fold else .round))
      (((t.setWK (sha256Round t.WK (kAt t.J) (wAt t.W t.J))).setJ
        (BitVec.ofNat 6 ((t.J.toNat + 1) % 64))).setPHASE (if t.J = 63#6 then .fold else .round)) := by
  obtain ⟨hN, hV, hL, hH, hW, hJ, hWK⟩ := h.live_of_phase hp
  rw [hW, hJ, hWK]
  refine ⟨rfl, ?_, h.ports, h.mem⟩
  rw [State.setPHASE_PHASE]
  split
  · exact ⟨hN, hV, hL, hH, rfl⟩
  · exact ⟨hN, hV, hL, hH, hW, rfl, rfl⟩

theorem fold_last (h : Indistinguishable s t) (hp : s.PHASE = .fold) :
    Indistinguishable ((s.setH (foldHash s.H s.WK)).setPHASE .format) ((t.setH (foldHash t.H t.WK)).setPHASE .format) := by
  obtain ⟨-, hV, -, hH, hWK⟩ := h.live_of_phase hp
  rw [hH, hWK]
  exact ⟨rfl, ⟨hV, rfl⟩, h.ports, h.mem⟩

theorem fold_next (h : Indistinguishable s t) (hp : s.PHASE = .fold) :
    Indistinguishable (((s.setH (foldHash s.H s.WK)).setN (BitVec.ofNat 56 (s.N.toNat + 1))).setPHASE .pad)
      (((t.setH (foldHash t.H t.WK)).setN (BitVec.ofNat 56 (t.N.toNat + 1))).setPHASE .pad) := by
  obtain ⟨hN, hV, hL, hH, hWK⟩ := h.live_of_phase hp
  rw [hN, hH, hWK]
  exact ⟨rfl, ⟨rfl, hV, hL, rfl⟩, h.ports, h.mem⟩

theorem format (h : Indistinguishable s t) (hp : s.PHASE = .format) :
    Indistinguishable ((s.setDIGEST_HEX (sha256DigestFormatter s.H s.VARIANT).hex).setPHASE .done)
      ((t.setDIGEST_HEX (sha256DigestFormatter t.H t.VARIANT).hex).setPHASE .done) := by
  obtain ⟨hV, hH⟩ := h.live_of_phase hp
  rw [hV, hH]
  exact ⟨rfl, ⟨hV, rfl⟩, h.ports, h.mem⟩

/-! ### Steps and runs -/

theorem acceptsStart (h : Indistinguishable s t) {v : Variant} (hv : s.acceptsStart v) : t.acceptsStart v := by
  obtain ⟨hhin, -⟩ := h.ports
  rwa [State.acceptsStart, hhin, ← h.busy_eq]

/-- The two machines take the same kind of step, and stay indistinguishable. -/
theorem exists_step (h : Indistinguishable s t) {s' : State} (hs : step s = .next s') :
    ∃ t', step t = .next t' ∧ Indistinguishable s' t' := by
  obtain ⟨hhin, -⟩ := h.ports
  rcases step_cases hs with ⟨hr, rfl⟩ | ⟨v, hv, rfl⟩ | ⟨hr, hseq⟩
  · exact ⟨_, step_reset (hhin ▸ hr), (reset h.ports h.mem).endStep⟩
  · exact ⟨_, step_start (h.acceptsStart hv), (start h.ports h.mem v).endStep⟩
  have hrt : rstBit t.hin = false := hhin ▸ hr
  rcases hseq with ⟨hb, hst, rfl⟩ | ⟨hp, rfl⟩ | ⟨hp, rfl⟩ | ⟨hp, rfl⟩ | ⟨hp, rfl⟩ | ⟨hp, hl, rfl⟩ | ⟨hp, hl, rfl⟩ | ⟨hp, rfl⟩
  · exact ⟨_, step_wait (h.busy_eq ▸ hb) hrt (hhin ▸ hst), h.endStep⟩
  · exact ⟨_, step_pad hrt (h.phase_of_phase hp), (h.pad hp).endStep⟩
  · exact ⟨_, step_sched hrt (h.phase_of_phase hp), (h.sched hp).endStep⟩
  · exact ⟨_, step_winit hrt (h.phase_of_phase hp), (h.winit hp).endStep⟩
  · exact ⟨_, step_round hrt (h.phase_of_phase hp), (h.round hp).endStep⟩
  · obtain ⟨hN, -, hL, -⟩ := h.live_of_phase hp
    exact ⟨_, step_fold_last hrt (h.phase_of_phase hp) (by rw [hN, hL, hl]), (h.fold_last hp).endStep⟩
  · obtain ⟨hN, -, hL, -⟩ := h.live_of_phase hp
    exact ⟨_, step_fold_next hrt (h.phase_of_phase hp) (by rwa [hN, hL]), (h.fold_next hp).endStep⟩
  · exact ⟨_, step_format hrt (h.phase_of_phase hp), (h.format hp).endStep⟩

theorem exists_run (k : Nat) (h : Indistinguishable s t) :
    ∃ s' t', run k s = .next s' ∧ run k t = .next t' ∧ Indistinguishable s' t' := by
  induction k generalizing s t with
  | zero => exact ⟨s, t, rfl, rfl, h⟩
  | succ k ih =>
    obtain ⟨s₁, hs⟩ := step_next s
    obtain ⟨t₁, ht, h₁⟩ := h.exists_step hs
    obtain ⟨s', t', hs', ht', h'⟩ := ih h₁
    exact ⟨s', t', (run_succ hs).trans hs', (run_succ ht).trans ht', h'⟩

end Indistinguishable

/-- The variant of an accepted START is the one on the ports. -/
theorem acceptsStart_variant_unique {s t : State} {v w : Variant} (hv : s.acceptsStart v) (hw : t.acceptsStart w)
    (hhin : t.hin = s.hin) : w = v := by
  obtain ⟨-, -, hv, -⟩ := hv
  obtain ⟨-, -, hw, -⟩ := hw
  rw [← hv, ← hw, hhin]

/-- Settles O52: the accepted START makes the two machines indistinguishable, and every later step keeps them so. -/
theorem nothingIsLeftOverFromEarlierComputations : Obligations.NothingIsLeftOverFromEarlierComputations := by
  intro s t v w hs ht hports hmem k
  obtain rfl := acceptsStart_variant_unique hs ht hports.1
  have hstart : Indistinguishable (s.start w).endStep (t.start w).endStep :=
    (Indistinguishable.start hports hmem w).endStep
  obtain ⟨s', t', hs', ht', h⟩ := hstart.exists_run k
  exact ⟨s', t', (run_succ (step_start hs)).trans hs', (run_succ (step_start ht)).trans ht', h.busy_eq, h.done_eq,
    fun hd => (h.digest_eq hd).1, h.digestString_eq, h.operation_eq, h.memReads_eq⟩

end Sys2Proof.Machine
end

section
/-! The message memory (20_memory.md): its canonical form, who reads it, who writes it, and in what order a computation reads
the message. -/

namespace Sys2Proof.Machine

/-! ### The canonical form (R40, R41) -/

/-- The head of a canonical memory is its lowest offset: nothing is read at or below it in the tail. -/
theorem Memory.read_tail_eq_none {q p : Nat} {c : Byte} {m : Memory} (h : Memory.wf ((q, c) :: m)) (hp : p ≤ q) :
    m.read p = none := by
  obtain ⟨hrising, -⟩ := h
  have hlow : ∀ e ∈ m, p < e.1 := fun e he => lt_of_le_of_lt hp ((List.pairwise_cons.1 hrising).1 e he)
  clear hrising
  induction m with
  | nil => rfl
  | cons d m ih =>
    have hd : p ≠ d.1 := (hlow d List.mem_cons_self).ne
    simp only [Memory.read, if_neg hd]
    exact ih fun e he => hlow e (List.mem_cons_of_mem _ he)

theorem Memory.read_cons_of_ne {q p : Nat} {c : Byte} {m : Memory} (h : p ≠ q) :
    Memory.read ((q, c) :: m) p = m.read p := if_neg h

@[simp] theorem Memory.read_cons_self (q : Nat) (c : Byte) (m : Memory) : Memory.read ((q, c) :: m) q = some c := if_pos rfl

/-- Two canonical memories that read the same do not have the lower head on one side only. -/
theorem Memory.le_head_of_read_eq {q r : Nat} {c d : Byte} {m n : Memory} (hn : Memory.wf ((r, d) :: n))
    (h : ∀ p, Memory.read ((q, c) :: m) p = Memory.read ((r, d) :: n) p) : r ≤ q := by
  by_contra hlt
  have hq := h q
  rw [Memory.read_cons_self, Memory.read_cons_of_ne (by omega), Memory.read_tail_eq_none hn (by omega)] at hq
  cases hq

/-- The canonical form is canonical: equal reads mean equal memories. -/
theorem Memory.eq_of_read_eq {m n : Memory} (hm : m.wf) (hn : n.wf) (h : ∀ p, m.read p = n.read p) : m = n := by
  induction m generalizing n with
  | nil =>
    cases n with
    | nil => rfl
    | cons e n => simpa [Memory.read] using h e.1
  | cons e m ih =>
    obtain ⟨q, c⟩ := e
    cases n with
    | nil => simpa [Memory.read] using h q
    | cons e n =>
      obtain ⟨r, d⟩ := e
      obtain rfl : q = r :=
        le_antisymm (Memory.le_head_of_read_eq hm fun p => (h p).symm) (Memory.le_head_of_read_eq hn h)
      obtain rfl : c = d := by simpa using h q
      have htail : ∀ p, Memory.read m p = Memory.read n p := by
        intro p
        by_cases hp : p = q
        · rw [Memory.read_tail_eq_none hm hp.le, Memory.read_tail_eq_none hn hp.le]
        · simpa [Memory.read_cons_of_ne hp] using h p
      rw [ih (Memory.wf_tail hm) (Memory.wf_tail hn) htail]

/-- Settles O48: the laws of `Memory.write`, and that reads determine a canonical memory. -/
theorem memoryIsCanonicalAndReadsBack : Obligations.MemoryIsCanonicalAndReadsBack :=
  fun m p b hm hp => ⟨Memory.write_wf hm hp, Memory.read_write_same m p b, fun _ hq => Memory.read_write_other hq,
    fun _ hm' hread => Memory.eq_of_read_eq hm' (Memory.write_wf hm hp) hread⟩

/-! ### The core never writes memory (R43) -/

theorem performSequencer_mem {s t : State} (h : performSequencer s = .next t) : t.mem = s.mem := by
  unfold performSequencer at h
  split at h <;> obtain rfl := Host.Outcome.next.inj h <;> simp

theorem start_or_performSequencer_mem {s t : State} {v : Variant}
    (h : (if s.busy then performSequencer s else .next (s.start v)) = .next t) : t.mem = s.mem := by
  split at h
  · exact performSequencer_mem h
  · obtain rfl := Host.Outcome.next.inj h
    simp

/-- No operation changes the message memory. -/
theorem exec_mem {i : Instr} {s t : State} (h : exec i s = .next t) : t.mem = s.mem := by
  cases i with
  | nop => exact performSequencer_mem h
  | startSha256 => exact start_or_performSequencer_mem (v := .sha256) h
  | startSha224 => exact start_or_performSequencer_mem (v := .sha224) h
  | reset | idle | pad | sched | winit | round | fold | format | hold =>
    obtain rfl := Host.Outcome.next.inj h
    simp

/-- A step leaves every byte that the host's next entry does not store to. -/
theorem step_read_mem {s t : State} {p : Nat} (h : step s = .next t)
    (hp : ∀ d ∈ s.host.head?, ∀ st ∈ d.stores, st.offset.toNat ≠ p) : t.mem.read p = s.mem.read p := by
  obtain ⟨-, -, hmem, -⟩ := step_host h
  rw [hmem]
  cases hhost : s.host with
  | nil => rfl
  | cons d rest => exact Memory.read_storeAll_other (hp d (by simp [hhost]))

/-- Settles O46: an operation keeps the memory itself, and after it only the host stores. -/
theorem theCoreNeverWritesMemory : Obligations.TheCoreNeverWritesMemory :=
  ⟨fun _ _ _ h p => by rw [exec_mem h], fun _ _ _ h hp => step_read_mem h hp⟩

/-! ### Who reads memory (R42) -/

theorem IgnoresMemory.of_exec {i : Instr} {s u : State} (hu : exec i s = .next u)
    (h : ∀ m, exec i { s with mem := m } = .next { u with mem := m }) : IgnoresMemory i s := by
  intro m t ht
  obtain rfl : u = t := Host.Outcome.next.inj (hu.symm.trans ht)
  exact h m

theorem ignoresMemory_reset (ignored : BitVec 2) (s : State) : IgnoresMemory (.reset ignored) s :=
  .of_exec rfl fun _ => rfl

/-- A sequencer operation other than PAD uses registers only. -/
theorem ignoresMemory_sequencer (s : State) {i : Instr}
    (h : i = .idle ∨ i = .sched ∨ i = .winit ∨ i = .round ∨ i = .fold ∨ i = .format ∨ i = .hold) : IgnoresMemory i s := by
  rcases h with rfl | rfl | rfl | rfl | rfl | rfl | rfl <;> exact .of_exec rfl fun _ => rfl

/-- NOP is the sequencer operation of the phase under another name (45_core_sequencer.md R143). -/
theorem ignoresMemory_nop (ignored : BitVec 1) {s : State} (hp : s.PHASE ≠ .pad) : IgnoresMemory (.nop ignored) s := by
  have hseq : IgnoresMemory (decodeS s.PHASE.bits) s := by
    refine ignoresMemory_sequencer s ?_
    revert hp
    cases s.PHASE <;> decide
  intro m t ht
  rw [show exec (.nop ignored) s = exec (decodeS s.PHASE.bits) s from (exec_decodeS s).symm] at ht
  exact (exec_decodeS { s with mem := m }).symm.trans (hseq m t ht)

theorem exec_start_of_not_busy {s : State} (hb : s.busy = false) :
    exec .startSha256 s = .next (s.start .sha256) ∧ exec .startSha224 s = .next (s.start .sha224) := by
  simp [exec, execStartSha256, execStartSha224, hb]

/-- An accepted START writes constants and the port `msg_len` (45_core_sequencer.md R141, R142). -/
theorem ignoresMemory_start {s : State} {i : Instr} (hi : i = .startSha256 ∨ i = .startSha224) (hb : s.busy = false) :
    IgnoresMemory i s := by
  rcases hi with rfl | rfl
  · exact .of_exec (exec_start_of_not_busy hb).1 fun m => (exec_start_of_not_busy (s := { s with mem := m }) hb).1
  · exact .of_exec (exec_start_of_not_busy hb).2 fun m => (exec_start_of_not_busy (s := { s with mem := m }) hb).2

theorem memReadsOf_eq_nil (s : State) {i : Instr} (h : i ≠ .pad) : s.memReadsOf i = [] := by
  cases i with
  | pad => exact absurd rfl h
  | reset | nop | startSha256 | startSha224 | idle | sched | winit | round | fold | format | hold => rfl

theorem length_padReads (len : BitVec 61) (n : BitVec 56) :
    (padReads len n).length = min 64 (len.toNat - 64 * n.toNat) := by
  rw [padReads_eq, List.length_range']

theorem mem_padReads {len : BitVec 61} {n : BitVec 56} {p : Nat} :
    p ∈ padReads len n ↔ p < len.toNat ∧ ∃ i, i < 64 ∧ p = 64 * n.toNat + i := by
  simp [padReads, and_comm, eq_comm]

/-- What the padder gets depends on the bytes PAD reads and on no other. -/
theorem padderBytes_of_reads_eq {s : State} {m : Memory}
    (h : ∀ p ∈ padReads s.LEN s.N, m.read p = s.mem.read p) :
    { s with mem := m }.padderBytes = s.padderBytes := by
  refine tabulate_congr fun i hi => ?_
  show (if padderRd s.LEN s.N i then _ else _) = if padderRd s.LEN s.N i then _ else _
  split
  · next hrd =>
    have hread : m.read (64 * s.N.toNat + i) = s.mem.read (64 * s.N.toNat + i) :=
      h _ (mem_padReads.2 ⟨of_decide_eq_true hrd, i, hi, rfl⟩)
    simp only [State.memRead, hread]
  · rfl

theorem exec_pad_of_reads_eq {s t : State} {m : Memory} (h : ∀ p ∈ padReads s.LEN s.N, m.read p = s.mem.read p)
    (ht : exec .pad s = .next t) : exec .pad { s with mem := m } = .next { t with mem := m } := by
  obtain rfl := Host.Outcome.next.inj ht
  simp only [exec, execPad, padderBytes_of_reads_eq h]
  rfl

/-- Settles O45: PAD's reads and its dependence on them, then every other operation. -/
theorem onlyPadReadsMemory : Obligations.OnlyPadReadsMemory :=
  ⟨fun s => ⟨padReads s.LEN s.N, rfl, length_padReads s.LEN s.N, fun _ => mem_padReads,
      fun _ h _ ht => exec_pad_of_reads_eq h ht⟩,
    fun _ _ hi hb => ignoresMemory_start hi hb, fun s ignored => ignoresMemory_reset ignored s,
    fun _ ignored hp => ignoresMemory_nop ignored hp, fun s _ hi => ignoresMemory_sequencer s hi,
    fun s _ hi => memReadsOf_eq_nil s hi⟩

end Sys2Proof.Machine
end

section
/-! The reads of a computation (20_memory.md R50, R52): how far a computation has come, and what it has still to read. -/

namespace Sys2Proof.Machine

/-! ### What a computation has before it -/

/-- How many steps of the computation are left (45_core_sequencer.md R140, R150): those of the current block, 68 for each later
block, and FORMAT. -/
def State.stepsLeft (s : State) : Nat :=
  let later := 68 * (NBLK s.LEN.toNat - (s.N.toNat + 1))
  match s.PHASE with
  | .pad => later + 69
  | .sched => later + 68
  | .winit => later + 67
  | .round => later + (66 - s.J.toNat)
  | .fold => later + 2
  | .format => 1
  | .idle => 0
  | .done => 0

/-- The offsets of the message from the block `n` on. -/
def offsetsFrom (len : BitVec 61) (n : Nat) : List Nat := List.range' (64 * n) (len.toNat - 64 * n)

/-- The offsets the computation has still to read, in order: from the current block on in PAD, from the next one on after it. -/
def State.unread (s : State) : List Nat :=
  match s.PHASE with
  | .pad => offsetsFrom s.LEN s.N.toNat
  | .sched | .winit | .round | .fold => offsetsFrom s.LEN (s.N.toNat + 1)
  | .format | .idle | .done => []

@[simp] theorem State.endStep_stepsLeft (s : State) : s.endStep.stepsLeft = s.stepsLeft := by simp [State.stepsLeft]
@[simp] theorem State.endStep_unread (s : State) : s.endStep.unread = s.unread := by simp [State.unread]

theorem offsetsFrom_zero (len : BitVec 61) : offsetsFrom len 0 = List.range len.toNat := by
  simp [offsetsFrom, List.range_eq_range']

/-- A PAD step reads the first 64 of the offsets that are left, or all of them. -/
theorem offsetsFrom_eq_padReads_append (len : BitVec 61) (n : BitVec 56) :
    offsetsFrom len n.toNat = padReads len n ++ offsetsFrom len (n.toNat + 1) := by
  rw [padReads_eq, offsetsFrom, offsetsFrom]
  by_cases h : 64 * n.toNat + 64 ≤ len.toNat
  · rw [show min 64 (len.toNat - 64 * n.toNat) = 64 by omega, show 64 * (n.toNat + 1) = 64 * n.toNat + 64 by omega,
      List.range'_append_1]
    congr 1
    omega
  · rw [show min 64 (len.toNat - 64 * n.toNat) = len.toNat - 64 * n.toNat by omega,
      show len.toNat - 64 * (n.toNat + 1) = 0 by omega]
    simp

/-- The last block of the Padded Buffer reaches past the end of the message (41_padder.md R101). -/
theorem offsetsFrom_NBLK (len : BitVec 61) : offsetsFrom len (NBLK len.toNat) = [] := by
  simp only [offsetsFrom, List.range'_eq_nil_iff, NBLK]
  omega

theorem State.busy_iff_stepsLeft_pos (s : State) : s.busy = true ↔ 0 < s.stepsLeft := by
  have hJ := s.J.isLt
  rw [State.busy_eq]
  cases hp : s.PHASE <;> simp [phaseBusy, State.stepsLeft, hp]
  omega

theorem State.unread_of_stepsLeft_eq_zero {s : State} (h : s.stepsLeft = 0) : s.unread = [] := by
  have hb : ¬ s.busy = true := by rw [s.busy_iff_stepsLeft_pos, h]; decide
  rcases phase_of_not_busy (Bool.eq_false_iff.2 hb) with hp | hp <;> simp [State.unread, hp]

/-! ### One step of a computation -/

/-- `t` is one step further in the computation of `s`, a step in which `s` reads the offsets `t` has no longer to read. -/
structure Advances (s t : State) : Prop where
  block : t.N.toNat < NBLK t.LEN.toNat
  stepsLeft : s.stepsLeft = t.stepsLeft + 1
  unread : s.unread = s.memReads ++ t.unread

theorem Advances.endStep {s t : State} (h : Advances s t) : Advances s t.endStep where
  block := by simpa using h.block
  stepsLeft := by simpa using h.stepsLeft
  unread := by simpa using h.unread

section
variable {s : State} (hN : s.N.toNat < NBLK s.LEN.toNat)
include hN

theorem advances_pad (hr : rstBit s.hin = false) (hp : s.PHASE = .pad) (b : Vector Byte 64) :
    Advances s ((s.setBLK b).setPHASE .sched) where
  block := hN
  stepsLeft := by simp [State.stepsLeft, hp]
  unread := by simp [State.unread, hp, memReads_of_pad hr hp, offsetsFrom_eq_padReads_append]

theorem advances_sched (hp : s.PHASE = .sched) (w : Vector Word 64) : Advances s ((s.setW w).setPHASE .winit) where
  block := hN
  stepsLeft := by simp [State.stepsLeft, hp]
  unread := by simp [State.unread, hp, memReads_of_phase_ne_pad]

theorem advances_winit (hp : s.PHASE = .winit) (r : Work) : Advances s (((s.setWK r).setJ 0#6).setPHASE .round) where
  block := hN
  stepsLeft := by simp [State.stepsLeft, hp]
  unread := by simp [State.unread, hp, memReads_of_phase_ne_pad]

theorem advances_round (hp : s.PHASE = .round) (r : Work) :
    Advances s (((s.setWK r).setJ (BitVec.ofNat 6 ((s.J.toNat + 1) % 64))).setPHASE (if s.J = 63#6 then .fold else .round)) := by
  have hreads : s.memReads = [] := memReads_of_phase_ne_pad (by simp [hp])
  by_cases hJ : s.J = 63#6
  · rw [if_pos hJ]
    exact ⟨hN, by simp [State.stepsLeft, hp, hJ], by simp [State.unread, hp, hreads]⟩
  · rw [if_neg hJ]
    have hlt : s.J.toNat + 1 < 64 := by bv_omega
    refine ⟨hN, ?_, by simp [State.unread, hp, hreads]⟩
    simp [State.stepsLeft, hp, Nat.mod_eq_of_lt hlt]
    omega

theorem advances_fold_last (hp : s.PHASE = .fold) (hl : s.N.toNat + 1 = NBLK s.LEN.toNat)
    (h : Vector Word 8) : Advances s ((s.setH h).setPHASE .format) where
  block := hN
  stepsLeft := by simp [State.stepsLeft, hp, hl]
  unread := by simp [State.unread, hp, hl, offsetsFrom_NBLK, memReads_of_phase_ne_pad]

theorem advances_fold_next (hp : s.PHASE = .fold) (hl : s.N.toNat + 1 ≠ NBLK s.LEN.toNat)
    (h : Vector Word 8) : Advances s (((s.setH h).setN (BitVec.ofNat 56 (s.N.toNat + 1))).setPHASE .pad) := by
  have hfit : s.N.toNat + 1 < 2 ^ 56 := by
    have hle := NBLK_le s.LEN
    omega
  have hnext : (BitVec.ofNat 56 (s.N.toNat + 1)).toNat = s.N.toNat + 1 := by
    rw [BitVec.toNat_ofNat, Nat.mod_eq_of_lt hfit]
  refine ⟨?_, ?_, ?_⟩
  · show (BitVec.ofNat 56 (s.N.toNat + 1)).toNat < NBLK s.LEN.toNat
    omega
  · simp only [State.stepsLeft, hp, State.setPHASE_PHASE, State.setPHASE_N, State.setN_N, State.setPHASE_LEN, State.setN_LEN,
      State.setH_LEN, hnext]
    omega
  · simp [State.unread, hp, hnext, memReads_of_phase_ne_pad]

theorem advances_format (hp : s.PHASE = .format) (d : Vector Byte 64) : Advances s ((s.setDIGEST_HEX d).setPHASE .done) where
  block := hN
  stepsLeft := by simp [State.stepsLeft, hp]
  unread := by simp [State.unread, hp, memReads_of_phase_ne_pad]

/-- Every step of a computation brings it one step further, whatever the host stores or presents but a RESET. -/
theorem advances_step {t : State} (h : step s = .next t) (hb : s.busy = true) (hr : rstBit s.hin = false) : Advances s t := by
  rcases step_cases h with ⟨hreset, -⟩ | ⟨v, hv, -⟩ | ⟨-, ⟨hidle, -⟩ | ⟨hp, rfl⟩ | ⟨hp, rfl⟩ | ⟨hp, rfl⟩ | ⟨hp, rfl⟩ |
    ⟨hp, hl, rfl⟩ | ⟨hp, hl, rfl⟩ | ⟨hp, rfl⟩⟩
  · simp [hr] at hreset
  · obtain ⟨-, -, -, hidle⟩ := hv
    simp [hb] at hidle
  · simp [hb] at hidle
  · exact (advances_pad hN hr hp _).endStep
  · exact (advances_sched hN hp _).endStep
  · exact (advances_winit hN hp _).endStep
  · exact (advances_round hN hp _).endStep
  · exact (advances_fold_last hN hp hl _).endStep
  · exact (advances_fold_next hN hp hl _).endStep
  · exact (advances_format hN hp _).endStep

theorem exists_advance (hleft : 0 < s.stepsLeft) (hr : rstBit s.hin = false) : ∃ t, step s = .next t ∧ Advances s t := by
  obtain ⟨t, ht⟩ := step_next s
  exact ⟨t, ht, advances_step hN ht (s.busy_iff_stepsLeft_pos.2 hleft) hr⟩

end

/-! ### The whole computation -/

/-- From anywhere inside a computation, the rest of it reads exactly what is left to read. -/
theorem readTrace_eq_unread {k : Nat} {s : State} (hk : s.stepsLeft = k + 1) (hN : s.N.toNat < NBLK s.LEN.toNat)
    (hq : s.Quiet k) : readTrace (k + 1) s = s.unread := by
  induction k generalizing s with
  | zero =>
    obtain ⟨t, ht, hadv⟩ := exists_advance hN (by omega) hq.1
    have hend : t.stepsLeft = 0 := Nat.succ.inj (hadv.stepsLeft.symm.trans hk)
    rw [readTrace_succ ht, hadv.unread, State.unread_of_stepsLeft_eq_zero hend]
    rfl
  | succ k ih =>
    obtain ⟨t, ht, hadv⟩ := exists_advance hN (by omega) hq.1
    have hleft : t.stepsLeft = k + 1 := Nat.succ.inj (hadv.stepsLeft.symm.trans hk)
    rw [readTrace_succ ht, ih hleft hadv.block (noResetFor_step hq.2 ht), hadv.unread]

theorem State.start_stepsLeft (s : State) (v : Variant) : (s.start v).stepsLeft = 68 * NBLK s.msgLen.toNat + 1 := by
  have hblocks := NBLK_pos s.msgLen.toNat
  simp [State.stepsLeft]
  omega

theorem State.start_unread (s : State) (v : Variant) : (s.start v).unread = List.range s.msgLen.toNat := by
  simp [State.unread, offsetsFrom_zero]

/-- Settles O47: the accepting step reads nothing and leaves the whole message to be read. -/
theorem everyMessageByteIsReadOnceInOrder : Obligations.EveryMessageByteIsReadOnceInOrder := by
  intro s v hv hquiet
  have hstep : step s = .next (s.start v).endStep := step_start hv
  have hreads : s.memReads = [] := by
    obtain ⟨-, -, -, hb⟩ := hv
    exact memReads_of_phase_ne_pad fun hp => by simp [busy_of_phase hp, phaseBusy] at hb
  calc readTrace (68 * NBLK s.msgLen.toNat + 2) s
      = s.memReads ++ readTrace (68 * NBLK s.msgLen.toNat + 1) (s.start v).endStep := readTrace_succ hstep
    _ = (s.start v).endStep.unread := by
        rw [hreads, List.nil_append]
        exact readTrace_eq_unread (by rw [State.endStep_stepsLeft, s.start_stepsLeft])
          (by simpa using NBLK_pos s.msgLen.toNat) (noResetFor_step hquiet hstep)
    _ = List.range s.msgLen.toNat := by rw [State.endStep_unread, s.start_unread]

end Sys2Proof.Machine
end

section
/-! Encoding (30_encoding.md): the decoders word by word, the round trip, what the dispatch of a step chooses, and what the
variant tag selects. -/

namespace Sys2Proof

/-! ### Format H (R62) -/

theorem decodeH_reset (lo : BitVec 2) : decodeH (0b1#1 ++ lo) = .reset lo := by
  revert lo
  decide

theorem decodeH_nop (lo : BitVec 1) : decodeH (0b00#2 ++ lo) = .nop lo := by
  revert lo
  decide

theorem decodeH_of_rst {w : BitVec 3} (hr : rstBit w = true) : decodeH w = .reset (w.extractLsb' 0 2) := if_pos hr

theorem decodeH_of_start {w : BitVec 3} (hr : rstBit w = false) (hs : startBit w = true) :
    decodeH w = if variantBit w then .startSha224 else .startSha256 := by
  simp [decodeH, hr, hs]

theorem decodeH_of_wait {w : BitVec 3} (hr : rstBit w = false) (hs : startBit w = false) :
    decodeH w = .nop (w.extractLsb' 0 1) := by
  simp [decodeH, hr, hs]

/-- The rows of format H divide the eight words among them, and no row of format S covers a word of format H. -/
theorem opcodeRow_covers_H_iff (w : BitVec 3) (i : Instr) :
    (opcodeRow i).covers .H w = true ↔ opcodeRow i = opcodeRow (decodeH w) := by
  cases i with
  | reset lo => revert lo w; decide
  | nop lo => revert lo w; decide
  | startSha256 | startSha224 | idle | pad | sched | winit | round | fold | format | hold => revert w; decide

/-- Settles O1: each row of R62's table, and the rows divide the words. -/
theorem hostCommandWordsDecode : Obligations.HostCommandWordsDecode :=
  ⟨decodeH_reset, decodeH_nop, rfl, rfl, fun _ => rfl, fun _ => rfl, rfl, rfl, opcodeRow_covers_H_iff⟩

/-! ### Format S (R64) -/

@[simp] theorem Phase.ofBits_bits (p : Phase) : Phase.ofBits p.bits = p := by
  cases p <;> rfl

@[simp] theorem Phase.bits_ofBits (w : BitVec 3) : (Phase.ofBits w).bits = w := by
  revert w
  decide

/-- Settles O2: each row of R64's table, and the encoding of `PHASE` both ways. -/
theorem sequencerSelectorsDecode : Obligations.SequencerSelectorsDecode :=
  ⟨rfl, rfl, rfl, rfl, rfl, rfl, rfl, rfl, Phase.ofBits_bits, Phase.bits_ofBits⟩

/-! ### The round trip (R60, R67) -/

theorem OpWord.wellFormed_toNat (f : Format) (w : BitVec 3) : OpWord.wellFormed ⟨f, w.toNat⟩ = true :=
  decide_eq_true w.isLt

/-- A well-formed operation word is three bits on one of the two selectors. -/
theorem OpWord.exists_bits {o : OpWord} (h : o.wellFormed = true) : ∃ w : BitVec 3, o = ⟨o.format, w.toNat⟩ :=
  ⟨BitVec.ofNatLT o.value (of_decide_eq_true h), rfl⟩

theorem Instr.wellFormed_eq_true (i : Instr) : i.wellFormed = true := by
  cases i <;> rfl

theorem decode_H (w : BitVec 3) : decode ⟨.H, w.toNat⟩ = .ok (decodeH w) := by
  simp [decode, w.isLt]

theorem decode_S (w : BitVec 3) : decode ⟨.S, w.toNat⟩ = .ok (decodeS w) := by
  simp [decode, w.isLt]

/-- Decoding drops no bit of a host command word: the ignored ones stand in the operation. -/
theorem encode_decodeH (w : BitVec 3) : encode (decodeH w) = ⟨.H, w.toNat⟩ := by
  revert w
  decide

theorem encode_decodeS (w : BitVec 3) : encode (decodeS w) = ⟨.S, w.toNat⟩ := by
  revert w
  decide

/-- Every operation is decoded from some word of its format. -/
theorem Instr.exists_word (i : Instr) : (∃ w, decodeH w = i) ∨ ∃ w, decodeS w = i := by
  cases i with
  | reset lo => exact .inl ⟨_, decodeH_reset lo⟩
  | nop lo => exact .inl ⟨_, decodeH_nop lo⟩
  | startSha256 => exact .inl ⟨0b010#3, rfl⟩
  | startSha224 => exact .inl ⟨0b011#3, rfl⟩
  | idle => exact .inr ⟨0b000#3, rfl⟩
  | pad => exact .inr ⟨0b001#3, rfl⟩
  | sched => exact .inr ⟨0b010#3, rfl⟩
  | winit => exact .inr ⟨0b011#3, rfl⟩
  | round => exact .inr ⟨0b100#3, rfl⟩
  | fold => exact .inr ⟨0b101#3, rfl⟩
  | format => exact .inr ⟨0b110#3, rfl⟩
  | hold => exact .inr ⟨0b111#3, rfl⟩

theorem encode_wellFormed_and_decode_encode (i : Instr) :
    (encode i).wellFormed = true ∧ decode (encode i) = .ok i := by
  rcases i.exists_word with ⟨w, rfl⟩ | ⟨w, rfl⟩
  · rw [encode_decodeH]
    exact ⟨OpWord.wellFormed_toNat .H w, decode_H w⟩
  · rw [encode_decodeS]
    exact ⟨OpWord.wellFormed_toNat .S w, decode_S w⟩

theorem exists_decode_and_encode {o : OpWord} (h : o.wellFormed = true) : ∃ i, decode o = .ok i ∧ encode i = o := by
  obtain ⟨w, ho⟩ := OpWord.exists_bits h
  rw [ho]
  cases o.format with
  | H => exact ⟨decodeH w, decode_H w, encode_decodeH w⟩
  | S => exact ⟨decodeS w, decode_S w, encode_decodeS w⟩

theorem decode_of_not_wellFormed {o : OpWord} (h : o.wellFormed = false) : decode o = .error .widerThanThreeBits :=
  if_neg (of_decide_eq_false h)

/-- Settles O3: `encode` inverts the decoder of each format, and every operation comes from a word of its format. -/
theorem decodeAndEncodeAgree : Obligations.DecodeAndEncodeAgree := by
  refine ⟨fun i _ => encode_wellFormed_and_decode_encode i, fun o h => ?_, fun _ => decode_of_not_wellFormed⟩
  obtain ⟨i, hdecode, hencode⟩ := exists_decode_and_encode h
  exact ⟨i, hdecode, i.wellFormed_eq_true, hencode⟩

/-! ### The variant tag (R66) -/

@[simp] theorem Variant.ofBit_bit (v : Variant) : Variant.ofBit v.bit = v := by
  cases v <;> rfl

theorem Variant.eq_sha256_or_eq_sha224 (v : Variant) : v = .sha256 ∨ v = .sha224 := by
  cases v with
  | sha256 => exact .inl rfl
  | sha224 => exact .inr rfl

end Sys2Proof

namespace Sys2Proof.Machine

@[simp] theorem length_formatString (h : Vector Word 8) (v : Variant) : (formatString h v).length = 8 * NW v := by
  simp [formatString]

theorem IV256_ne_IV224 : IV256 ≠ IV224 := by decide

/-- Settles O40: the tag is a bit of a two-constructor type, and the string has eight characters for each word. -/
theorem variantSelectsTheFunction : Obligations.VariantSelectsTheFunction :=
  ⟨rfl, rfl, Variant.ofBit_bit, Variant.eq_sha256_or_eq_sha224, rfl, rfl, IV256_ne_IV224, rfl, rfl,
    fun h => ⟨length_formatString h .sha256, length_formatString h .sha224⟩⟩

/-! ### Dispatch (R65) -/

/-- The operation of a step that neither resets nor accepts a START is the sequencer's choice. -/
theorem exec_operation_of_not_accepted {s : State} (hr : rstBit s.hin = false)
    (hs : s.busy = true ∨ startBit s.hin = false) : exec s.operation s = performSequencer s := by
  rcases hs with hb | hs
  · rw [operation_of_busy hr hb, exec_decodeS]
  · rw [operation_of_wait hr hs, exec_decodeS]

/-- A START while the core is busy is the sequencer operation of the phase under another name (45_core_sequencer.md R151). -/
theorem exec_start_of_busy {s : State} (hb : s.busy = true) :
    exec .startSha256 s = performSequencer s ∧ exec .startSha224 s = performSequencer s := by
  simp [exec, execStartSha256, execStartSha224, hb]

/-- Without `rst` and an accepted START the command word is NOP, or a START while the core is busy (45_core_sequencer.md R143,
R151). -/
theorem exec_decodeH_of_not_accepted {s : State} (hr : rstBit s.hin = false)
    (hs : s.busy = true ∨ startBit s.hin = false) : exec (decodeH s.hin) s = performSequencer s := by
  cases hst : startBit s.hin with
  | false =>
    rw [decodeH_of_wait hr hst]
    rfl
  | true =>
    have hb : s.busy = true := by simpa [hst] using hs
    obtain ⟨h256, h224⟩ := exec_start_of_busy hb
    rw [decodeH_of_start hr hst]
    split
    · exact h224
    · exact h256

/-- Settles O6: RESET and an accepted START are the decoded command itself, and in every other step both sides perform the
sequencer operation. -/
theorem dispatchAgreesWithTheCommandWord : Obligations.DispatchAgreesWithTheCommandWord := by
  intro s
  cases hr : rstBit s.hin with
  | true => rw [operation_of_rst hr, decodeH_of_rst hr]
  | false =>
    by_cases hs : s.busy = true ∨ startBit s.hin = false
    · rw [exec_operation_of_not_accepted hr hs, exec_decodeH_of_not_accepted hr hs]
    · obtain ⟨hb, hst⟩ : s.busy = false ∧ startBit s.hin = true := by simpa using hs
      rw [operation_of_start hr hst hb, decodeH_of_start hr hst]

/-- A sequencer operation neither reads nor writes the command word. -/
theorem performSequencer_with_hin {s t : State} (w : BitVec 3) (h : performSequencer s = .next t) :
    performSequencer { s with hin := w } = .next { t with hin := w } := by
  have key : ∀ p : Phase, exec (decodeS p.bits) s = .next t →
      exec (decodeS p.bits) { s with hin := w } = .next { t with hin := w } := by
    intro p hp
    cases p with
    | idle | pad | sched | winit | round | fold | format | done =>
      obtain rfl := Host.Outcome.next.inj hp
      rfl
  exact (exec_decodeS { s with hin := w }).symm.trans (key s.PHASE ((exec_decodeS s).trans h))

/-- The command word of a step is gone after it: the host's next one stands in its place. -/
theorem State.endStep_with_hin (s : State) (w : BitVec 3) : { s with hin := w }.endStep = s.endStep := by
  cases hhost : s.host <;> simp [State.endStep, hhost]

/-- A START presented while the core is busy "is neither queued nor remembered", nor is anything else of `hin[1:0]`. -/
theorem step_with_hin_of_busy {s : State} {w : BitVec 3} (hr : rstBit s.hin = false) (hb : s.busy = true)
    (hw : rstBit w = false) : step { s with hin := w } = step s := by
  obtain ⟨t, ht⟩ := performSequencer_next s
  calc step { s with hin := w }
      = .next { t with hin := w }.endStep :=
        step_sequencer (s := { s with hin := w }) hw (.inl hb) (performSequencer_with_hin w ht)
    _ = .next t.endStep := by rw [State.endStep_with_hin]
    _ = step s := (step_sequencer hr (.inl hb) ht).symm

/-- Settles O4: the clauses are the cases of the dispatch, and a busy step takes only `rst` from the command word. -/
theorem dispatchChoosesTheOperation : Obligations.DispatchChoosesTheOperation := by
  intro s
  refine ⟨operation_of_rst, ?sha256, ?sha224, ?idle, ?done, operation_of_busy,
    fun hr hb _ hw => step_with_hin_of_busy hr hb hw⟩
  case sha256 =>
    intro hr hb hs hv
    simp [operation_of_start hr hs hb, hv]
  case sha224 =>
    intro hr hb hs hv
    simp [operation_of_start hr hs hb, hv]
  case idle =>
    intro hr hp hs
    have hop : s.operation = .idle := by rw [operation_of_wait hr hs, hp]; rfl
    exact ⟨hop, by rw [hop]; rfl⟩
  case done =>
    intro hr hp hs
    have hop : s.operation = .hold := by rw [operation_of_wait hr hs, hp]; rfl
    exact ⟨hop, by rw [hop]; rfl⟩

end Sys2Proof.Machine
end

section
/-! The word functions (40_word_functions.md): each one's value, or its bits. The obligations about them are read off from
these. -/

namespace Sys2Proof.Machine

/-! ### add32 (R80) -/

theorem add32_toNat (xs : List Word) : (add32 xs).toNat = (xs.map BitVec.toNat).sum % 2 ^ 32 := BitVec.toNat_ofNat ..

theorem add32_nil : add32 [] = 0 := rfl

theorem add32_cons (x : Word) (xs : List Word) : add32 (x :: xs) = x + add32 xs := by
  apply BitVec.eq_of_toNat_eq
  simp [add32]

/-- `add32` is the sum in the ring of words, whose laws are then the library's. -/
theorem add32_eq_sum (xs : List Word) : add32 xs = xs.sum := by
  induction xs with
  | nil => exact add32_nil
  | cons x xs ih => rw [add32_cons, ih, List.sum_cons]

/-- Settles O33: grouping and order are the laws of the sum in the ring of words. -/
theorem add32IsModularAddition : Obligations.Add32IsModularAddition := by
  refine ⟨add32_toNat, fun xs ys => ?grouping, fun xs ys h => ?order, fun x y => ?pair, by decide⟩
  case grouping => simp [add32_eq_sum]
  case order => rw [add32_eq_sum, add32_eq_sum, h.sum_eq]
  case pair => simp [add32_eq_sum]

/-! ### rotr (R81) -/

theorem rotr_eq_rotateRight {n : Nat} (hn : n < 32) (x : Word) : rotr x n = x.rotateRight n := by
  rw [BitVec.rotateRight_def, Nat.mod_eq_of_lt hn]
  rfl

theorem getLsbD_rotr {n i : Nat} (hn : n < 32) (hi : i < 32) (x : Word) :
    (rotr x n).getLsbD i = x.getLsbD ((i + n) % 32) := by
  rw [rotr_eq_rotateRight hn, BitVec.getLsbD_rotateRight_of_lt hn]
  by_cases h : i < 32 - n
  · have hmod : (i + n) % 32 = n + i := by omega
    simp [h, hmod]
  · have hmod : (i + n) % 32 = i - (32 - n) := by omega
    simp [h, hi, hmod]

/-- The two parts that `rotr` joins have no bit in common, so their or is their sum. -/
theorem rotr_toNat {n : Nat} (hn : n ≤ 32) (x : Word) :
    (rotr x n).toNat = x.toNat % 2 ^ n * 2 ^ (32 - n) + x.toNat / 2 ^ n := by
  have hsplit : 2 ^ n * 2 ^ (32 - n) = 2 ^ 32 := by rw [← Nat.pow_add, Nat.add_sub_cancel' hn]
  have hlow : x.toNat / 2 ^ n < 2 ^ (32 - n) := Nat.div_lt_of_lt_mul (hsplit ▸ x.isLt)
  calc (rotr x n).toNat
      = x.toNat / 2 ^ n ||| x.toNat * 2 ^ (32 - n) % 2 ^ 32 := by
        simp only [rotr, BitVec.toNat_or, BitVec.toNat_ushiftRight, BitVec.toNat_shiftLeft, Nat.shiftRight_eq_div_pow,
          Nat.shiftLeft_eq]
    _ = x.toNat / 2 ^ n ||| x.toNat % 2 ^ n * 2 ^ (32 - n) := by rw [← hsplit, Nat.mul_mod_mul_right]
    _ = x.toNat % 2 ^ n * 2 ^ (32 - n) + x.toNat / 2 ^ n := by
        rw [Nat.or_comm, ← Nat.shiftLeft_eq, Nat.shiftLeft_add_eq_or_of_lt hlow]

theorem rotr_rotr_sub {n : Nat} (h1 : 1 ≤ n) (h31 : n ≤ 31) (x : Word) : rotr (rotr x n) (32 - n) = x := by
  apply BitVec.eq_of_getLsbD_eq
  intro i hi
  have hround : ((i + (32 - n)) % 32 + n) % 32 = i := by omega
  rw [getLsbD_rotr (by omega) hi, getLsbD_rotr (by omega) (Nat.mod_lt _ (by decide)), hround]

theorem rotr_zero (n : Nat) : rotr 0#32 n = 0#32 := by simp [rotr]

theorem rotr_allOnes {n : Nat} (hn : n < 32) : rotr (BitVec.allOnes 32) n = BitVec.allOnes 32 := by
  apply BitVec.eq_of_getLsbD_eq
  intro i hi
  have hround : (i + n) % 32 < 32 := Nat.mod_lt _ (by decide)
  rw [getLsbD_rotr hn hi, BitVec.getLsbD_allOnes, BitVec.getLsbD_allOnes, decide_eq_true hround, decide_eq_true hi]

/-- Settles O34: bit by bit, and as a number. -/
theorem rotrMovesEveryBit : Obligations.RotrMovesEveryBit := by
  intro x n h1 h31
  have hn : n < 32 := Nat.lt_succ_of_le h31
  exact ⟨fun i hi => getLsbD_rotr hn hi x, rotr_toNat hn.le x, rotr_rotr_sub h1 h31 x, rotr_zero n, rotr_allOnes hn⟩

/-! ### shr (R82) -/

theorem shr_toNat (x : Word) (n : Nat) : (shr x n).toNat = x.toNat / 2 ^ n := by
  rw [shr, BitVec.toNat_ushiftRight, Nat.shiftRight_eq_div_pow]

theorem getLsbD_shr (x : Word) (n i : Nat) : (shr x n).getLsbD i = x.getLsbD (i + n) := by
  rw [shr, BitVec.getLsbD_ushiftRight, Nat.add_comm]

/-- Settles O35: bits past the top of `x` are 0. -/
theorem shrIsALogicalShift : Obligations.ShrIsALogicalShift := by
  intro x n _ _
  refine ⟨shr_toNat x n, fun i _ => ?_⟩
  rw [getLsbD_shr]
  split
  · rfl
  · next h => exact BitVec.getLsbD_of_ge x _ (Nat.le_of_not_lt h)

/-! ### Ch and Maj (R83, R84) -/

theorem getLsbD_Ch {i : Nat} (hi : i < 32) (x y z : Word) :
    (Ch x y z).getLsbD i = if x.getLsbD i then y.getLsbD i else z.getLsbD i := by
  rw [Ch, BitVec.getLsbD_xor, BitVec.getLsbD_and, BitVec.getLsbD_and, BitVec.getLsbD_not, decide_eq_true hi]
  cases x.getLsbD i <;> simp

theorem getLsbD_Maj (x y z : Word) (i : Nat) :
    (Maj x y z).getLsbD i = Bool.atLeastTwo (x.getLsbD i) (y.getLsbD i) (z.getLsbD i) := by
  have hxor : ∀ a b c : Bool, (((a && b) ^^ (a && c)) ^^ (b && c)) = Bool.atLeastTwo a b c := by decide
  simp [Maj, hxor]

theorem atLeastTwo_iff (a b c : Bool) : Bool.atLeastTwo a b c = true ↔ 2 ≤ a.toNat + b.toNat + c.toNat := by
  revert a b c
  decide

/-- The two terms of `Ch` have no bit in common, so their exclusive or is their or. -/
theorem Ch_eq_or (x y z : Word) : Ch x y z = (x &&& y) ||| (~~~x &&& z) := by
  apply BitVec.eq_of_getLsbD_eq
  intro i hi
  rw [getLsbD_Ch hi, BitVec.getLsbD_or, BitVec.getLsbD_and, BitVec.getLsbD_and, BitVec.getLsbD_not, decide_eq_true hi]
  cases x.getLsbD i <;> simp

theorem Ch_zero (y z : Word) : Ch 0#32 y z = z := by
  rw [Ch, BitVec.not_zero, BitVec.zero_and, BitVec.allOnes_and, BitVec.zero_xor]

theorem Ch_allOnes (y z : Word) : Ch (BitVec.allOnes 32) y z = y := by
  rw [Ch, BitVec.not_allOnes, BitVec.zero_and, BitVec.allOnes_and, BitVec.xor_zero]

theorem Ch_self (x y : Word) : Ch x y y = y := by
  apply BitVec.eq_of_getLsbD_eq
  intro i hi
  rw [getLsbD_Ch hi, ite_self]

theorem Maj_comm_left (x y z : Word) : Maj x y z = Maj y x z := by
  rw [Maj, Maj, BitVec.and_comm x y, BitVec.xor_assoc, BitVec.xor_assoc, BitVec.xor_comm (x &&& z)]

theorem Maj_comm_right (x y z : Word) : Maj x y z = Maj x z y := by
  rw [Maj, Maj, BitVec.xor_comm (x &&& y), BitVec.and_comm y z]

theorem Maj_self (x z : Word) : Maj x x z = x := by
  rw [Maj, BitVec.xor_assoc, BitVec.xor_self, BitVec.xor_zero, BitVec.and_self]

theorem Maj_zero (y z : Word) : Maj 0#32 y z = y &&& z := by
  rw [Maj, BitVec.zero_and, BitVec.zero_and, BitVec.xor_zero, BitVec.zero_xor]

theorem Maj_allOnes (y z : Word) : Maj (BitVec.allOnes 32) y z = y ||| z := by
  apply BitVec.eq_of_getLsbD_eq
  intro i hi
  rw [getLsbD_Maj, BitVec.getLsbD_allOnes, decide_eq_true hi, Bool.atLeastTwo_true_left, BitVec.getLsbD_or]

/-- Settles O36: from the bits of the two functions. -/
theorem choiceAndMajority : Obligations.ChoiceAndMajority := by
  intro x y z
  refine ⟨fun i hi => getLsbD_Ch hi x y z, fun i _ => ?majority, Ch_eq_or x y z, Ch_zero y z, Ch_allOnes y z, Ch_self x y,
    Maj_comm_left x y z, Maj_comm_right x y z, Maj_self x z, Maj_zero y z, Maj_allOnes y z⟩
  case majority => rw [getLsbD_Maj, atLeastTwo_iff]

/-! ### Sigma0, Sigma1, sigma0, sigma1 (R85 to R88) -/

/-- Settles O37: the bits of the three rotations, or of the two and the shift. -/
theorem sigmaFunctionsByBit : Obligations.SigmaFunctionsByBit := by
  intro x i hi
  refine ⟨?Sigma0, ?Sigma1, ?sigma0, ?sigma1⟩
  case Sigma0 => simp only [Sigma0, BitVec.getLsbD_xor, getLsbD_rotr, hi, Nat.reduceLT]
  case Sigma1 => simp only [Sigma1, BitVec.getLsbD_xor, getLsbD_rotr, hi, Nat.reduceLT]
  case sigma0 => simp only [sigma0, BitVec.getLsbD_xor, getLsbD_rotr, getLsbD_shr, hi, Nat.reduceLT]
  case sigma1 => simp only [sigma1, BitVec.getLsbD_xor, getLsbD_rotr, getLsbD_shr, hi, Nat.reduceLT]

end Sys2Proof.Machine
end

section
/-! The padder and PAD (41_padder.md): the lengths, then `PadByte` and `pad(m)` by the four ranges of R102, which agree range
by range. -/

namespace Sys2Proof.Machine

/-! ### Lengths (R101, R107) -/

theorem PLEN_eq_add_padZeros (L : Nat) : PLEN L = L + 1 + padZeros L + 8 := by
  unfold PLEN padZeros
  omega

theorem PLEN_eq_mul_NBLK (L : Nat) : PLEN L = 64 * NBLK L := rfl

theorem padZeros_lt (L : Nat) : padZeros L < 64 := Nat.mod_lt _ (by decide)

/-- `k(L)` is the least solution: below 64 there is only one (R101). -/
theorem padZeros_le_of_mod {L k : Nat} (h : (L + 1 + k + 8) % 64 = 0) : padZeros L ≤ k := by
  unfold padZeros
  omega

/-- Up to 55 the 0x80 and the length field fit behind the message in its last block (R107). -/
theorem padding_fits {L : Nat} (h : L % 64 ≤ 55) : padZeros L = 55 - L % 64 ∧ NBLK L = L / 64 + 1 := by
  unfold padZeros NBLK
  omega

/-- From 56 on the length field spills into one more block (R107). -/
theorem padding_spills {L : Nat} (h : 56 ≤ L % 64) : padZeros L = 119 - L % 64 ∧ NBLK L = L / 64 + 2 := by
  unfold padZeros NBLK
  omega

@[simp] theorem length_lengthField (L : Nat) : (lengthField L).length = 8 := by simp [lengthField]

@[simp] theorem length_padMessage (m : List Byte) : (padMessage m).length = PLEN m.length := by
  simp [padMessage, PLEN_eq_add_padZeros]
  omega

/-- Settles O19: the length is a multiple of 64 by its formula and `L + 1 + k + 8` by the choice of `k`; the rest is arithmetic
from these two. -/
theorem paddingLengths : Obligations.PaddingLengths := by
  intro L
  have hsum := PLEN_eq_add_padZeros L
  have hblocks := PLEN_eq_mul_NBLK L
  have hpos := NBLK_pos L
  have hk := padZeros_lt L
  refine ⟨by omega, by omega, fun k => padZeros_le_of_mod, hsum, rfl, by omega, rfl, by omega, by omega, by omega, by omega,
    by omega, hpos, padding_fits, padding_spills, ?_⟩
  rintro m rfl
  exact length_padMessage m

/-! ### The length field (R100, R103) -/

theorem bitLength_toNat (l : BitVec 61) : (bitLength l).toNat = 8 * l.toNat := by
  rw [bitLength, BitVec.toNat_append, BitVec.toNat_ofNat, Nat.zero_mod, Nat.or_zero, Nat.shiftLeft_eq, Nat.mul_comm]

/-- Settles O20: `bit_length` appends three zero bits to 61. -/
theorem bitLengthNeverOverflows : Obligations.BitLengthNeverOverflows := by
  intro l
  have hvalue := bitLength_toNat l
  have hlt := l.isLt
  exact ⟨hvalue, by omega, BitVec.extractLsb'_append_eq_right⟩

theorem byteOf64_bitLength_toNat (l : BitVec 61) (q : Nat) :
    (byteOf64 (bitLength l) q).toNat = 8 * l.toNat / 256 ^ q % 256 := by
  rw [byteOf64_toNat, bitLength_toNat]

/-- Read big-endian, the first `n` of the eight bytes of a value are what stands above its lowest `8 - n` bytes. -/
theorem foldl_byteOf64 (v : BitVec 64) {n : Nat} (hn : n ≤ 8) :
    ((List.range n).map fun q => byteOf64 v (7 - q)).foldl (fun acc b => 256 * acc + b.toNat) 0 =
      v.toNat / 256 ^ (8 - n) := by
  induction n with
  | zero => exact (Nat.div_eq_of_lt v.isLt).symm
  | succ n ih =>
    have hexp : 8 - n = (7 - n) + 1 := by omega
    have hnext : 8 - (n + 1) = 7 - n := by omega
    rw [List.range_succ, List.map_append, List.foldl_append, ih (by omega), hexp, hnext, Nat.pow_succ,
      ← Nat.div_div_eq_div_mul]
    simp only [List.map_cons, List.map_nil, List.foldl_cons, List.foldl_nil, byteOf64_toNat]
    exact Nat.div_add_mod _ _

theorem foldl_lengthField {L : Nat} (hL : L < 2 ^ 61) :
    (lengthField L).foldl (fun acc b => 256 * acc + b.toNat) 0 = 8 * L := by
  rw [lengthField, foldl_byteOf64 _ le_rfl, bitLength_toNat, BitVec.toNat_ofNat, Nat.mod_eq_of_lt hL, Nat.sub_self,
    Nat.pow_zero, Nat.div_one]

/-- Settles O18: the layout is the definition of `pad(m)`, its length field reads as the bit length, and `k(L)` is the least
number of zero bytes. -/
theorem paddedMessageLayout : Obligations.PaddedMessageLayout := by
  intro m hm
  refine ⟨padZeros m.length, ⟨lengthField m.length, rfl, length_lengthField _, foldl_lengthField hm⟩, ?_,
    fun k' => padZeros_le_of_mod⟩
  rw [length_padMessage, PLEN_eq_mul_NBLK, Nat.mul_mod_right]

/-! ### `PadByte` by its four ranges (R102) -/

section
variable {len : BitVec 61} {m : Byte} {i : Nat}

theorem padByte_message (h : i < len.toNat) : padByte len m i = m := if_pos h

theorem padByte_marker (h : i = len.toNat) : padByte len m i = 0x80#8 := by simp [padByte, h]

theorem padByte_zeros (hlow : len.toNat < i) (hhigh : i + 8 < PLEN len.toNat) : padByte len m i = 0x00#8 := by
  have hzeros : i < PLEN len.toNat - 8 := by omega
  simp [padByte, hlow.not_gt, hlow.ne', hzeros]

theorem padByte_lengthField (hlow : PLEN len.toNat ≤ i + 8) (hhigh : i < PLEN len.toNat) :
    padByte len m i = byteOf64 (bitLength len) (PLEN len.toNat - 1 - i) := by
  have hsum := PLEN_eq_add_padZeros len.toNat
  have hmessage : ¬ i < len.toNat := by omega
  have hmarker : i ≠ len.toNat := by omega
  have hzeros : ¬ i < PLEN len.toNat - 8 := by omega
  simp [padByte, hmessage, hmarker, hzeros, hhigh]

end

/-! ### `pad(m)` by the same ranges (R100, R102) -/

section
variable {m : List Byte} {i : Nat}

theorem padMessage_getElem?_message (h : i < m.length) : (padMessage m)[i]? = m[i]? := by
  simp [padMessage, List.getElem?_append_left, h]

theorem padMessage_getElem?_marker (m : List Byte) : (padMessage m)[m.length]? = some 0x80#8 := by
  simp [padMessage]

theorem padMessage_getElem?_zeros (hlow : m.length < i) (hhigh : i + 8 < PLEN m.length) :
    (padMessage m)[i]? = some 0x00#8 := by
  have hsum := PLEN_eq_add_padZeros m.length
  have hfront : (m ++ [0x80#8]).length ≤ i := by simp; omega
  rw [padMessage, List.getElem?_append_left (by simp; omega), List.getElem?_append_right hfront,
    List.getElem?_replicate_of_lt (by simp; omega)]

theorem padMessage_getElem?_lengthField (hlow : PLEN m.length ≤ i + 8) (hhigh : i < PLEN m.length) :
    (padMessage m)[i]? = some (byteOf64 (bitLength (BitVec.ofNat 61 m.length)) (PLEN m.length - 1 - i)) := by
  have hsum := PLEN_eq_add_padZeros m.length
  have hlen : (m ++ [0x80#8] ++ List.replicate (padZeros m.length) 0x00#8).length = PLEN m.length - 8 := by simp; omega
  have hq : i - (PLEN m.length - 8) < 8 := by omega
  have hbyte : 7 - (i - (PLEN m.length - 8)) = PLEN m.length - 1 - i := by omega
  rw [padMessage, List.getElem?_append_right (by omega), hlen, lengthField, List.getElem?_map, List.getElem?_range hq,
    Option.map_some, hbyte]

end

/-- Byte `i` of `pad(m)` is `PadByte(L, i)` (R102). -/
theorem padMessage_getElem? {m : List Byte} {len : BitVec 61} {b : Byte} {i : Nat} (hlen : m.length = len.toNat)
    (hi : i < PLEN len.toNat) (hb : i < len.toNat → m[i]? = some b) : (padMessage m)[i]? = some (padByte len b i) := by
  have hcases : i < len.toNat ∨ i = len.toNat ∨ len.toNat < i ∧ i + 8 < PLEN len.toNat ∨ PLEN len.toNat ≤ i + 8 := by omega
  rcases hcases with hmessage | hmarker | ⟨hlow, hhigh⟩ | hfield
  · rw [padMessage_getElem?_message (hlen ▸ hmessage), padByte_message hmessage, hb hmessage]
  · rw [padByte_marker hmarker, hmarker, ← hlen, padMessage_getElem?_marker]
  · rw [padByte_zeros hlow hhigh, padMessage_getElem?_zeros (hlen ▸ hlow) (hlen ▸ hhigh)]
  · rw [padByte_lengthField hfield hi, padMessage_getElem?_lengthField (hlen ▸ hfield) (hlen ▸ hi), hlen,
      BitVec.ofNat_toNat, BitVec.setWidth_eq]

/-! ### The sub-module (R106) -/

@[simp] theorem sha256Padder_blk_getElem (len : BitVec 61) (n : BitVec 56) (m : Vector Byte 64) {i : Nat} (h : i < 64) :
    (sha256Padder len n m).blk[i] = padByte len m[i] (64 * n.toNat + i) := by
  rw [sha256Padder, tabulate_getElem, vector_getD m i h]

/-- Settles O21: below `NBLK` the outputs are the padder's formulas, and `PLEN = 64 · NBLK`. -/
theorem padderOutputs : Obligations.PadderOutputs := by
  intro len n m hn
  have hlast : (sha256Padder len n m).last = true ↔ 64 * (n.toNat + 1) = PLEN len.toNat := by
    simp [sha256Padder, hn, padderLast]
  refine ⟨fun i hi => ⟨sha256Padder_blk_getElem len n m hi, ?rd⟩, hlast, ?lastBlock⟩
  case rd => simp [sha256Padder, hn, padderRd]
  case lastBlock => rw [hlast, PLEN_eq_mul_NBLK, Nat.mul_right_inj (by decide)]

/-! ### The operation (R104, R105) -/

/-- PAD is no host command: the step performs it exactly in its phase, outside RESET (30_encoding.md R62, R65). -/
theorem operation_eq_pad_iff (s : State) : s.operation = .pad ↔ rstBit s.hin = false ∧ s.PHASE = .pad := by
  unfold State.operation
  generalize s.hin = hin
  cases s.PHASE <;> revert hin <;> decide

theorem State.memRead_of_read {s : State} {p : Nat} {b : Byte} (h : s.mem.read p = some b) : s.memRead p = b := by
  simp [State.memRead, h]

theorem State.padderBytes_getElem {s : State} {i : Nat} {b : Byte} (hi : i < 64) (hlen : 64 * s.N.toNat + i < s.LEN.toNat)
    (hb : s.mem.read (64 * s.N.toNat + i) = some b) : s.padderBytes[i] = b := by
  simp [State.padderBytes, padderRd, hlen, State.memRead_of_read hb]

theorem pairwise_padReads (len : BitVec 61) (n : BitVec 56) : (padReads len n).Pairwise (· < ·) := by
  rw [padReads_eq]
  exact List.pairwise_lt_range'

/-- The offsets of block `n` are those whose quotient by 64 is `n` (20_memory.md R42). -/
theorem mem_padReads_iff_div {len : BitVec 61} {n : BitVec 56} {p : Nat} :
    p ∈ padReads len n ↔ p < len.toNat ∧ p / 64 = n.toNat := by
  rw [mem_padReads, and_congr_right_iff]
  intro _
  constructor
  · rintro ⟨i, hi, rfl⟩
    omega
  · intro hp
    exact ⟨p % 64, by omega, by omega⟩

/-- Settles O16: PAD writes the padder's block and `PHASE`; the block's bytes follow the four ranges of `PadByte`. -/
theorem padFillsTheBlock : Obligations.PadFillsTheBlock := by
  refine ⟨operation_eq_pad_iff, fun s => ⟨_, rfl, frame_trans (frame_setBLK s _) (frame_setPHASE _ _), rfl, rfl,
    fun i hi => ?bytes, pairwise_padReads s.LEN s.N, fun p => mem_padReads_iff_div, fun hN i hi => ?bounds⟩⟩
  case bytes =>
    rw [State.setPHASE_BLK, State.setBLK_BLK, sha256Padder_blk_getElem s.LEN s.N _ hi]
    refine ⟨fun b hlen hb => ?_, padByte_marker, padByte_zeros, fun hlow hhigh => ?_⟩
    · rw [padByte_message hlen, State.padderBytes_getElem hi hlen hb]
    · rw [padByte_lengthField hlow hhigh, byteOf64_bitLength_toNat]
  case bounds =>
    have hlimit := NBLK_le s.LEN
    exact ⟨lt_PLEN_of_lt_NBLK hN hi, by omega⟩

/-- Settles O17: each byte of the block is the byte of `pad(m)` at its offset, the message bytes being those in memory. -/
theorem padBlockIsTheMessagePadded : Obligations.PadBlockIsTheMessagePadded := by
  intro s m hlen hmem hN
  refine ⟨_, rfl, fun i hi => ?_⟩
  rw [State.setPHASE_BLK, State.setBLK_BLK, sha256Padder_blk_getElem s.LEN s.N _ hi]
  refine padMessage_getElem? hlen (lt_PLEN_of_lt_NBLK hN hi) fun hmessage => ?_
  have hp : 64 * s.N.toNat + i < m.length := hlen ▸ hmessage
  rw [State.padderBytes_getElem hi hmessage (hmem _ hp), List.getElem?_eq_getElem hp]

end Sys2Proof.Machine
end

section
/-! The block scheduler and SCHED (42_block_scheduler.md): the words of `expand(blk)` by the two rules R111 and R112, and why
no other 64 words follow both. -/

namespace Sys2Proof.Machine

/-! ### The words of `expand(blk)` (R111, R112) -/

/-- Words 16 to 63 follow the recurrence of R112. -/
def FollowsRecurrence (w : Vector Word 64) : Prop :=
  ∀ i, (h : 16 ≤ i ∧ i < 64) → w[i] = add32 [sigma1 w[i - 2], w[i - 7], sigma0 w[i - 15], w[i - 16]]

/-- Every word that `extendSchedule` appends is given by the words before it in the result. -/
theorem extendSchedule_getD_appended {n i : Nat} {w : List Word} (h16 : 16 ≤ w.length) (hlow : w.length ≤ i)
    (hhigh : i < w.length + n) :
    (extendSchedule n w).getD i 0#32 =
      add32 [sigma1 ((extendSchedule n w).getD (i - 2) 0#32), (extendSchedule n w).getD (i - 7) 0#32,
        sigma0 ((extendSchedule n w).getD (i - 15) 0#32), (extendSchedule n w).getD (i - 16) 0#32] := by
  induction n generalizing w with
  | zero => omega
  | succ n ih =>
    rcases hlow.eq_or_lt with rfl | hlater
    · have hword : (extendSchedule (n + 1) w).getD w.length 0#32 = nextScheduleWord w := by
        rw [extendSchedule, extendSchedule_prefix _ _ _ (by simp)]
        simp [List.getD]
      have hbefore : ∀ k, 0 < k → (extendSchedule (n + 1) w).getD (w.length - k) 0#32 = w.getD (w.length - k) 0#32 :=
        fun k hk => extendSchedule_prefix _ _ _ (by omega)
      rw [hword, nextScheduleWord, hbefore 2 (by decide), hbefore 7 (by decide), hbefore 15 (by decide),
        hbefore 16 (by decide)]
    · exact ih (by simp; omega) (by simp; omega) (by simp; omega)

theorem expand_getElem_first (blk : Vector Byte 64) {i : Nat} (h : i < 16) : (expand blk)[i] = blockWord blk i := by
  rw [expand_getElem, extendSchedule_prefix _ _ _ (by simpa using h)]
  simp [List.getD, h]

theorem expand_followsRecurrence (blk : Vector Byte 64) : FollowsRecurrence (expand blk) := by
  intro i hi
  have happended := extendSchedule_getD_appended (n := 48) (i := i) (w := (List.range 16).map (blockWord blk))
    (by simp) (by simp; omega) (by simp; omega)
  simpa only [expand_getElem] using happended

theorem blockWord_toNat (blk : Vector Byte 64) {i : Nat} (h : i < 16) :
    (blockWord blk i).toNat = blk[4 * i].toNat * 2 ^ 24 + blk[4 * i + 1].toNat * 2 ^ 16 + blk[4 * i + 2].toNat * 2 ^ 8 +
      blk[4 * i + 3].toNat := by
  rw [blockWord_eq blk i h, wordOfBytes_toNat]

/-- "Each word depends only on words of lower index": the first 16 words and the recurrence leave nothing open. -/
theorem FollowsRecurrence.unique {v w : Vector Word 64} (hv : FollowsRecurrence v) (hw : FollowsRecurrence w)
    (hfirst : ∀ i, (h : i < 16) → v[i] = w[i]) : v = w := by
  have hword : ∀ i, (h : i < 64) → v[i] = w[i] := by
    intro i
    induction i using Nat.strong_induction_on with
    | h i ih =>
      intro hi
      by_cases hlow : i < 16
      · exact hfirst i hlow
      · rw [hv i (by omega), hw i (by omega), ih (i - 2) (by omega), ih (i - 7) (by omega), ih (i - 15) (by omega),
          ih (i - 16) (by omega)]
  exact Vector.ext hword

/-- Settles O23: `expand(blk)` follows both rules, and two schedules that do agree word by word. -/
theorem scheduleIsTheOnlySolution : Obligations.ScheduleIsTheOnlySolution := by
  intro blk w
  constructor
  · rintro ⟨hfirst, hrecurrence⟩
    refine FollowsRecurrence.unique hrecurrence (expand_followsRecurrence blk) fun i hi => ?_
    rw [expand_getElem_first blk hi]
    exact BitVec.eq_of_toNat_eq ((hfirst i hi).trans (blockWord_toNat blk hi).symm)
  · rintro rfl
    exact ⟨fun i hi => by rw [expand_getElem_first blk hi, blockWord_toNat blk hi], expand_followsRecurrence blk⟩

/-! ### The operation (R113) -/

/-- A step performs the host's command or, outside RESET, the sequencer operation of the phase (30_encoding.md R65). -/
theorem operation_cases (s : State) :
    s.operation = decodeH s.hin ∨ rstBit s.hin = false ∧ s.operation = decodeS s.PHASE.bits := by
  cases hr : rstBit s.hin with
  | true => exact .inl ((operation_of_rst hr).trans (decodeH_of_rst hr).symm)
  | false =>
    by_cases hs : s.busy = true ∨ startBit s.hin = false
    · exact .inr ⟨rfl, hs.elim (operation_of_busy hr) (operation_of_wait hr)⟩
    · obtain ⟨hb, hst⟩ : s.busy = false ∧ startBit s.hin = true := by simpa using hs
      exact .inl ((operation_of_start hr hst hb).trans (decodeH_of_start hr hst).symm)

/-- The two formats have no operation in common. -/
theorem decodeH_ne_decodeS (w v : BitVec 3) : decodeH w ≠ decodeS v := by
  intro h
  have hwords := congrArg encode h
  rw [encode_decodeH, encode_decodeS] at hwords
  cases congrArg OpWord.format hwords

theorem decodeS_injective {w v : BitVec 3} (h : decodeS w = decodeS v) : w = v := by
  have hwords := congrArg encode h
  rw [encode_decodeS, encode_decodeS] at hwords
  exact BitVec.eq_of_toNat_eq (congrArg OpWord.value hwords)

/-- A busy phase's operation is performed exactly in that phase, outside RESET (30_encoding.md R62, R65). -/
theorem operation_eq_decodeS_iff {p : Phase} (hp : phaseBusy p = true) (s : State) :
    s.operation = decodeS p.bits ↔ rstBit s.hin = false ∧ s.PHASE = p := by
  constructor
  · intro hop
    rcases operation_cases s with hcommand | ⟨hr, hphase⟩
    · exact absurd (hcommand.symm.trans hop) (decodeH_ne_decodeS _ _)
    · have hbits : s.PHASE.bits = p.bits := decodeS_injective (hphase.symm.trans hop)
      exact ⟨hr, Function.LeftInverse.injective Phase.ofBits_bits hbits⟩
  · rintro ⟨hr, rfl⟩
    exact operation_of_busy hr hp

/-- Settles O22: SCHED writes `expand(BLK)` and `PHASE`; its words are those of the two rules. -/
theorem schedLoadsTheSchedule : Obligations.SchedLoadsTheSchedule := by
  refine ⟨operation_eq_decodeS_iff (p := .sched) rfl, fun s => ⟨(s.setW (expand s.BLK)).setPHASE .winit, rfl,
    frame_trans (frame_setW s _) (frame_setPHASE _ _), rfl, rfl, rfl, fun i hi => ?first, fun i hi => ?recurrence, rfl,
    ignoresMemory_sequencer s (by simp)⟩⟩
  case first => rw [State.setPHASE_W, State.setW_W, expand_getElem_first s.BLK hi, blockWord_toNat s.BLK hi]
  case recurrence =>
    simp only [State.setPHASE_W, State.setW_W]
    rw [← add32_four]
    exact expand_followsRecurrence s.BLK i hi

end Sys2Proof.Machine
end

section
/-! The compressor (43_compressor_round.md): one round in the ring of words, the operations WINIT and ROUND, and the 64 rounds of
a block as a run of the machine. -/

namespace Sys2Proof.Machine

/-! ### One round (R120) -/

theorem roundT1_eq_add (r : Work) (k w : Word) : roundT1 r k w = r.h + Sigma1 r.e + Ch r.e r.f r.g + k + w :=
  add32_five ..

theorem roundT2_eq_add (r : Work) : roundT2 r = Sigma0 r.a + Maj r.a r.b r.c := by
  simp [roundT2, add32_eq_sum]

theorem sha256Round_a (r : Work) (k w : Word) : (sha256Round r k w).a = roundT1 r k w + roundT2 r := by
  simp [sha256Round, add32_eq_sum]

theorem sha256Round_e (r : Work) (k w : Word) : (sha256Round r k w).e = r.d + roundT1 r k w := by
  simp [sha256Round, add32_eq_sum]

/-! ### The operations (R121, R122) -/

/-- WINIT and ROUND write the same three registers. -/
theorem frame_setWK_setJ_setPHASE (s : State) (r : Work) (j : BitVec 6) (p : Phase) :
    FrameExcept [.WK, .J, .PHASE] s (((s.setWK r).setJ j).setPHASE p) :=
  frame_trans (frame_trans (frame_setWK s r) (frame_setJ _ j)) (frame_setPHASE _ p)

/-- Settles O24: WINIT loads `Work.ofVector H`, whose fields are the words of `H`, and writes `J` and `PHASE`. -/
theorem winitLoadsTheWorkingRegisters : Obligations.WinitLoadsTheWorkingRegisters :=
  ⟨operation_eq_decodeS_iff (p := .winit) rfl, fun s => ⟨((s.setWK (Work.ofVector s.H)).setJ 0#6).setPHASE .round, rfl,
    frame_setWK_setJ_setPHASE s _ _ _, rfl, rfl, rfl, rfl, rfl, rfl, rfl, rfl, rfl, rfl, rfl, rfl,
    ignoresMemory_sequencer s (by simp)⟩⟩

/-- Settles O25: the new `a` and `e` are the sums of R120 in the ring of words, and the last round is the one with `J = 63`. -/
theorem roundTransformsTheWorkingRegisters : Obligations.RoundTransformsTheWorkingRegisters := by
  refine ⟨operation_eq_decodeS_iff (p := .round) rfl, fun s => ⟨_, rfl, frame_setWK_setJ_setPHASE s _ _ _,
    ⟨?a, rfl, rfl, rfl, ?e, rfl, rfl, rfl⟩, ?index, fun hJ => ?last, fun hJ => ?again, rfl,
    ignoresMemory_sequencer s (by simp)⟩⟩
  case a => exact (sha256Round_a ..).trans (by rw [roundT1_eq_add, roundT2_eq_add]; rfl)
  case e => exact (sha256Round_e ..).trans (by rw [roundT1_eq_add]; rfl)
  case index => simp
  case last =>
    have hlast : s.J = 63#6 := BitVec.eq_of_toNat_eq hJ
    simp [hlast]
  case again =>
    have hnot : s.J ≠ 63#6 := fun h => hJ (congrArg BitVec.toNat h)
    simp [hnot]

/-! ### The 64 rounds of a block (R123, R124) -/

/-- The registers WINIT and ROUND do not write are the same in both states, whatever the host did in between. -/
def SameOutsideCompressor (s t : State) : Prop := ∀ r, r ∉ [Reg.WK, .J, .PHASE] → SameReg s t r

theorem SameOutsideCompressor.trans {s t u : State} (h : SameOutsideCompressor s t) (k : SameOutsideCompressor t u) :
    SameOutsideCompressor s u :=
  fun r hr => sameReg_trans (h r hr) (k r hr)

/-- What a step of WINIT or ROUND leaves. -/
theorem sameOutsideCompressor_endStep (s : State) (r : Work) (j : BitVec 6) (p : Phase) :
    SameOutsideCompressor s (((s.setWK r).setJ j).setPHASE p).endStep :=
  fun x hx => sameReg_trans ((frame_setWK_setJ_setPHASE s r j p).1 x hx) (sameReg_endStep _ x)

/-- In a busy phase and outside RESET, the trace begins with the phase's operation (30_encoding.md R65). -/
theorem operationTrace_busy {k : Nat} {s t : State} {p : Phase} (hb : phaseBusy p = true) (hr : rstBit s.hin = false)
    (hp : s.PHASE = p) (h : step s = .next t) :
    operationTrace (k + 1) s = (decodeS p.bits, s.N.toNat, s.J.toNat) :: operationTrace k t := by
  rw [operationTrace_succ h, (operation_eq_decodeS_iff hb s).2 ⟨hr, hp⟩]

/-- A ROUND before the last takes working registers that are `J` rounds from `r` one round further. -/
theorem exists_step_round_again {s : State} {r : Work} (hr : rstBit s.hin = false) (hp : s.PHASE = .round)
    (hwork : s.WK = roundsFrom r s.W s.J.toNat) (hlt : s.J.toNat + 1 < 64) :
    ∃ t, step s = .next t ∧ t.PHASE = .round ∧ t.J.toNat = s.J.toNat + 1 ∧ t.WK = roundsFrom r t.W t.J.toNat ∧
      SameOutsideCompressor s t := by
  have hnot : s.J ≠ 63#6 := fun h => by simp [h] at hlt
  refine ⟨_, step_round hr hp, by simp [hnot], by simp [Nat.mod_eq_of_lt hlt], ?_, sameOutsideCompressor_endStep _ _ _ _⟩
  rw [hwork, sha256Round_roundsFrom]
  simp [Nat.mod_eq_of_lt hlt]

/-- The ROUND with `J = 63` is the last of the 64 rounds. -/
theorem step_round_last {s : State} {r : Work} (hr : rstBit s.hin = false) (hp : s.PHASE = .round)
    (hwork : s.WK = roundsFrom r s.W s.J.toNat) (hJ : s.J = 63#6) :
    step s = .next (((s.setWK (compress r s.W)).setJ 0#6).setPHASE .fold).endStep := by
  rw [step_round hr hp, hwork, sha256Round_roundsFrom, if_pos hJ, hJ]
  rfl

/-- In `k` steps, all of them ROUND with the indices from `J` on, `s` comes to `t`, where the 64 rounds from `r` are done. -/
structure FinishesRounds (r : Work) (k : Nat) (s t : State) : Prop where
  reaches : run k s = .next t
  phase : t.PHASE = .fold
  index : t.J = 0#6
  work : t.WK = compress r s.W
  kept : SameOutsideCompressor s t
  trace : operationTrace k s = (List.range' s.J.toNat k).map fun j => (.round, s.N.toNat, j)

/-- From working registers that are `J` rounds from `r`, the rounds left before FOLD complete the 64. -/
theorem exists_finishesRounds {k : Nat} {s : State} {r : Work} (hk : s.J.toNat + k = 63) (hq : s.Quiet k)
    (hp : s.PHASE = .round) (hwork : s.WK = roundsFrom r s.W s.J.toNat) : ∃ t, FinishesRounds r (k + 1) s t := by
  induction k generalizing s with
  | zero =>
    have hstep := step_round_last hq.1 hp hwork (BitVec.eq_of_toNat_eq hk)
    exact ⟨_, run_succ hstep, by simp, by simp, by simp, sameOutsideCompressor_endStep _ _ _ _,
      operationTrace_busy rfl hq.1 hp hstep⟩
  | succ k ih =>
    obtain ⟨u, hstep, hphase, hindex, hrounds, hkept⟩ := exists_step_round_again hq.1 hp hwork (by omega)
    obtain ⟨t, ht⟩ := ih (by omega) (noResetFor_step hq.2 hstep) hphase hrounds
    have hN : u.N = s.N := hkept .N (by decide)
    have hW : u.W = s.W := hkept .W (by decide)
    refine ⟨t, (run_succ hstep).trans ht.reaches, ht.phase, ht.index, hW ▸ ht.work, hkept.trans ht.kept, ?_⟩
    rw [operationTrace_busy rfl hq.1 hp hstep, ht.trace, hindex, hN]
    rfl

/-- Settles O26: after WINIT the working registers are zero rounds from `H`, and all 64 rounds are left. -/
theorem sixtyFourRoundsCompress : Obligations.SixtyFourRoundsCompress := by
  intro s hp hr hquiet
  have hstep := step_winit hr hp
  have hwinit := sameOutsideCompressor_endStep s (Work.ofVector s.H) 0#6 .round
  obtain ⟨t, ht⟩ := exists_finishesRounds (k := 63) (r := Work.ofVector s.H) (by simp) (noResetFor_step hquiet hstep)
    (by simp) (by simp [roundsFrom])
  have hkept := hwinit.trans ht.kept
  refine ⟨t, (run_succ hstep).trans ht.reaches, ht.phase, ht.index, by simpa using ht.work, hkept .H (by decide),
    hkept .W (by decide), hkept .BLK (by decide), hkept .N (by decide), hkept .VARIANT (by decide), hkept .LEN (by decide),
    hkept .DIGEST_HEX (by decide), ?_⟩
  rw [operationTrace_busy rfl hr hp hstep, ht.trace, List.range_eq_range']
  simp [show decodeS Phase.winit.bits = .winit from rfl]

end Sys2Proof.Machine
end

section
/-! The digest formatter and FORMAT (44_digest_formatter.md): the digits, the characters of the rendering by word and digit,
and the string that the host reads in DONE. -/

namespace Sys2Proof.Machine

/-! ### The digits (R131) -/

theorem hexchar_toNat_of_le {v : BitVec 4} (h : v.toNat ≤ 9) : (hexchar v).toNat = 0x30 + v.toNat := by
  rw [hexchar, if_pos h]
  bv_omega

theorem hexchar_toNat_of_ge {v : BitVec 4} (h : 10 ≤ v.toNat) : (hexchar v).toNat = 0x57 + v.toNat := by
  rw [hexchar, if_neg (by omega)]
  bv_omega

/-- A nibble's code is an offset from it, in the range of the decimal digits or in that of the letters. -/
theorem hexchar_toNat_cases (v : BitVec 4) :
    v.toNat ≤ 9 ∧ (hexchar v).toNat = 0x30 + v.toNat ∨
      (10 ≤ v.toNat ∧ v.toNat ≤ 15) ∧ (hexchar v).toNat = 0x57 + v.toNat := by
  rcases Nat.lt_or_ge 9 v.toNat with hletter | hdecimal
  · exact .inr ⟨⟨hletter, Nat.le_of_lt_succ v.isLt⟩, hexchar_toNat_of_ge hletter⟩
  · exact .inl ⟨hdecimal, hexchar_toNat_of_le hdecimal⟩

/-- The sixteen codes a digest string is made of: `0` to `9` and the lowercase letters `a` to `f`. -/
def IsLowerHex (c : Byte) : Prop := (0x30 ≤ c.toNat ∧ c.toNat ≤ 0x39) ∨ (0x61 ≤ c.toNat ∧ c.toNat ≤ 0x66)

theorem isLowerHex_hexchar (v : BitVec 4) : IsLowerHex (hexchar v) := by
  rcases hexchar_toNat_cases v with ⟨hdecimal, hcode⟩ | ⟨hletter, hcode⟩
  · exact .inl (by omega)
  · exact .inr (by omega)

/-- The two ranges of codes are disjoint, and within each the offset is fixed. -/
theorem hexchar_injective : Function.Injective hexchar := by
  intro u v h
  have hcodes : (hexchar u).toNat = (hexchar v).toNat := congrArg BitVec.toNat h
  apply BitVec.eq_of_toNat_eq
  rcases hexchar_toNat_cases u with ⟨hu, hcu⟩ | ⟨hu, hcu⟩ <;>
    rcases hexchar_toNat_cases v with ⟨hv, hcv⟩ | ⟨hv, hcv⟩ <;> omega

/-- Settles O29: the code of a decimal digit, the code of a letter, and injectivity. -/
theorem hexcharIsLowercaseAscii : Obligations.HexcharIsLowercaseAscii := by
  refine fun v => ⟨hexchar_toNat_of_le, fun hletter => ⟨?_, hexchar_toNat_of_ge hletter⟩, isLowerHex_hexchar v,
    fun _ h => hexchar_injective h⟩
  rw [hexchar_toNat_of_ge hletter]
  omega

/-! ### The characters (R132) -/

theorem NW_le (v : Variant) : NW v ≤ 8 := by
  cases v <;> decide

theorem getLsbD_hexDigit (x : Word) (d : Nat) {k : Nat} (hk : k < 4) :
    (hexDigit x d).getLsbD k = x.getLsbD (28 - 4 * d + k) := by
  simp [hexDigit, hk]

/-- Bit `i` of a word is bit `i mod 4` of its digit `7 - i div 4`, so the eight digits are the whole word. -/
theorem eq_of_hexDigit_eq {x y : Word} (h : ∀ d, d < 8 → hexDigit x d = hexDigit y d) : x = y := by
  have hbit : ∀ (z : Word) (i : Nat), i < 32 → z.getLsbD i = (hexDigit z (7 - i / 4)).getLsbD (i % 4) := by
    intro z i hi
    rw [getLsbD_hexDigit z _ (Nat.mod_lt _ (by decide)), show 28 - 4 * (7 - i / 4) + i % 4 = i by omega]
  refine BitVec.eq_of_getLsbD_eq fun i hi => ?_
  rw [hbit x i hi, hbit y i hi, h _ (by omega)]

section
variable {g h : Vector Word 8} {v : Variant}

/-- Character `8w + d` of a word that the variant outputs. -/
theorem digestChar_of_word {w d : Nat} (h8 : w < 8) (hw : w < NW v) (hd : d < 8) :
    digestChar h v (8 * w + d) = hexchar (hexDigit h[w] d) := by
  have hdiv : (8 * w + d) / 8 = w := by omega
  have hmod : (8 * w + d) % 8 = d := by omega
  rw [digestChar, hdiv, hmod, if_pos hw, vector_getD h w h8]

theorem digestChar_beyond {c : Nat} (hc : 8 * NW v ≤ c) : digestChar h v c = 0x00#8 := if_neg (by omega)

/-- No word beyond those the variant outputs reaches a character (R134). -/
theorem digestChar_congr (hgh : ∀ w, (h8 : w < 8) → w < NW v → g[w] = h[w]) (c : Nat) :
    digestChar g v c = digestChar h v c := by
  by_cases hw : c / 8 < NW v
  · have h8 : c / 8 < 8 := hw.trans_le (NW_le v)
    rw [← Nat.div_add_mod c 8, digestChar_of_word h8 hw (Nat.mod_lt _ (by decide)),
      digestChar_of_word h8 hw (Nat.mod_lt _ (by decide)), hgh _ h8 hw]
  · rw [digestChar_beyond (by omega), digestChar_beyond (by omega)]

/-- Every character of the string is a digit of some word. -/
theorem isLowerHex_of_mem_formatString {c : Byte} (hc : c ∈ formatString h v) : IsLowerHex c := by
  obtain ⟨i, hi, rfl⟩ := List.mem_map.1 hc
  rw [digestChar, if_pos (by rw [List.mem_range] at hi; omega)]
  exact isLowerHex_hexchar _

end

/-- Settles O32: equal strings have equal characters, equal characters are equal digits, and a word is its eight digits. -/
theorem digestStringDeterminesTheWords : Obligations.DigestStringDeterminesTheWords := by
  intro v g h heq w h8 hw
  have hchar : ∀ c ∈ List.range (8 * NW v), digestChar g v c = digestChar h v c := List.map_inj_left.1 heq
  refine eq_of_hexDigit_eq fun d hd => hexchar_injective ?_
  rw [← digestChar_of_word h8 hw hd, ← digestChar_of_word h8 hw hd]
  exact hchar _ (List.mem_range.2 (by omega))

/-! ### The operation (R133, R134) -/

theorem digestChars_toNat (v : Variant) : (digestChars v).toNat = 8 * NW v := by
  cases v <;> decide

@[simp] theorem sha256DigestFormatter_hex_getElem (h : Vector Word 8) (v : Variant) {c : Nat} (hc : c < 64) :
    (sha256DigestFormatter h v).hex[c] = digestChar h v c := tabulate_getElem ..

/-- Settles O28: byte `8w + d` is character `8w + d` of the rendering, a digit of `H[w]` or 0x00. -/
theorem formatRendersTheHashState : Obligations.FormatRendersTheHashState := by
  refine ⟨operation_eq_decodeS_iff (p := .format) rfl, fun s => ⟨_, rfl,
    frame_trans (frame_setDIGEST_HEX s _) (frame_setPHASE _ _), rfl, rfl, rfl,
    fun w d h8 hd => ⟨fun hw => ?digit, fun hw => ?zero⟩, rfl, ignoresMemory_sequencer s (by simp)⟩⟩
  case digit =>
    have hnibble : BitVec.ofNat 4 (s.H[w].toNat / 2 ^ (28 - 4 * d) % 16) = hexDigit s.H[w] d := by
      rw [← hexDigit_toNat, BitVec.ofNat_toNat, BitVec.setWidth_eq]
    simp [hnibble, digestChar_of_word h8 hw hd]
  case zero => simp [digestChar_beyond (v := s.VARIANT) (c := 8 * w + d) (by omega)]

/-- Settles O30: SHA-224 outputs words 0 to 6, which are the same in both states, and characters 56 to 63 lie beyond them. -/
theorem sha224DropsTheEighthWord : Obligations.Sha224DropsTheEighthWord := by
  intro s u hs hu hwords
  refine ⟨_, _, rfl, rfl, Vector.ext fun c hc => ?same, fun i hi => ?zero, ?length⟩
  case same => simp [hs, hu, digestChar_congr (v := .sha224) (fun w _ hw => hwords w hw) c]
  case zero => simp [hs, digestChar_beyond (v := .sha224) hi.1]
  case length => simp [State.digestLen, hs, digestChars_toNat, NW]

/-! ### The string the host reads (R135) -/

theorem take_tabulate_toList {α : Type} {n k : Nat} (h : k ≤ n) (f : Nat → α) :
    (tabulate n f).toList.take k = (List.range k).map f := by
  simp [tabulate, ← List.map_take, List.take_range, h]

/-- In a state inside the invariant that has `done = 1` the host reads `format(H, NW(VARIANT))`. -/
theorem State.Inv.digestString_eq {s : State} (h : s.Inv) (hd : s.done = true) :
    s.digestString = some (formatString s.H s.VARIANT) := by
  have hlen : 8 * NW s.VARIANT ≤ 64 := by have := NW_le s.VARIANT; omega
  rw [State.digestString, if_pos hd, State.digestHex, h.digest (of_decide_eq_true hd), State.digestLen, digestChars_toNat,
    take_tabulate_toList hlen, formatString]

/-- Settles O31: a digest is shown only with `done = 1`, and there the invariant gives the whole string. -/
theorem shownDigestIsWellFormed : Obligations.ShownDigestIsWellFormed := by
  intro s str h hshown
  have hd : s.done = true := by
    by_contra hnot
    simp [State.digestString, hnot] at hshown
  obtain rfl : formatString s.H s.VARIANT = str := Option.some.inj ((h.digestString_eq hd).symm.trans hshown)
  have hlen : s.digestLen.toNat = 8 * NW s.VARIANT := digestChars_toNat s.VARIANT
  exact ⟨hlen, by rw [hlen, length_formatString], fun hv => by rw [length_formatString, hv]; rfl,
    fun hv => by rw [length_formatString, hv]; rfl, rfl, fun c hc => isLowerHex_of_mem_formatString hc⟩

end Sys2Proof.Machine
end

section
/-! The core sequencer's operations (45_core_sequencer.md R141 to R146): the two STARTs, NOP, a START while busy, IDLE and
HOLD, and FOLD. -/

namespace Sys2Proof.Machine

/-! ### An accepted START (R141, R142) -/

theorem busy_eq_false_iff (s : State) : s.busy = false ↔ s.PHASE = .idle ∨ s.PHASE = .done := by
  refine ⟨phase_of_not_busy, ?_⟩
  rintro (hp | hp) <;> exact busy_of_phase hp

theorem decodeH_injective {w v : BitVec 3} (h : decodeH w = decodeH v) : w = v := by
  have hwords := congrArg encode h
  rw [encode_decodeH, encode_decodeH] at hwords
  exact BitVec.eq_of_toNat_eq (congrArg OpWord.value hwords)

/-- A step performs a START exactly when the command word is that START and the core is not busy (30_encoding.md R65). -/
theorem operation_eq_decodeH_iff_of_start {w : BitVec 3} (hr : rstBit w = false) (hs : startBit w = true) (s : State) :
    s.operation = decodeH w ↔ rstBit s.hin = false ∧ (s.PHASE = .idle ∨ s.PHASE = .done) ∧ startBit s.hin = true ∧
      variantBit s.hin = variantBit w := by
  rw [← busy_eq_false_iff]
  constructor
  · intro hop
    rcases operation_cases s with hcommand | ⟨-, hphase⟩
    · obtain rfl : s.hin = w := decodeH_injective (hcommand.symm.trans hop)
      refine ⟨hr, Bool.eq_false_iff.2 fun hb => ?_, hs, rfl⟩
      exact decodeH_ne_decodeS _ _ (hop.symm.trans (operation_of_busy hr hb))
    · exact absurd (hop.symm.trans hphase) (decodeH_ne_decodeS _ _)
  · rintro ⟨hr', hb, hs', hv⟩
    rw [operation_of_start hr' hs' hb, hv, decodeH_of_start hr hs]

/-- What an accepted START writes, and nothing else. -/
theorem frame_start (s : State) (v : Variant) : FrameExcept [.VARIANT, .LEN, .H, .N, .J, .PHASE] s (s.start v) :=
  frame_trans (frame_trans (frame_trans (frame_trans (frame_trans (frame_setVARIANT s v) (frame_setLEN _ _))
    (frame_setH _ _)) (frame_setN _ _)) (frame_setJ _ _)) (frame_setPHASE _ _)

/-- The two STARTs "differ in nothing else" than `VARIANT` and `H`. -/
theorem frame_start_start (s : State) (v w : Variant) : FrameExcept [.VARIANT, .H] (s.start v) (s.start w) :=
  frame_trans (t := (s.start v).setVARIANT w) (frame_setVARIANT _ _) (frame_setH _ (IV w))

/-- Settles O10: outside a busy phase START_SHA256 is `State.start`, whose writes are R141's. -/
theorem startSha256BeginsAComputation : Obligations.StartSha256BeginsAComputation := by
  refine ⟨operation_eq_decodeH_iff_of_start (w := 0b010#3) rfl rfl, fun s hp => ?_⟩
  have hb : s.busy = false := (busy_eq_false_iff s).2 hp
  exact ⟨s.start .sha256, (exec_start_of_not_busy hb).1, frame_start s _, rfl, rfl, rfl, rfl, rfl, rfl, rfl, rfl, rfl,
    ignoresMemory_start (.inl rfl) hb⟩

/-- Settles O11: the same for START_SHA224, and both are `State.start` of a variant. -/
theorem startSha224BeginsAComputation : Obligations.StartSha224BeginsAComputation := by
  refine ⟨operation_eq_decodeH_iff_of_start (w := 0b011#3) rfl rfl, fun s hp => ?_⟩
  have hb : s.busy = false := (busy_eq_false_iff s).2 hp
  obtain ⟨h256, h224⟩ := exec_start_of_not_busy hb
  refine ⟨⟨s.start .sha224, h224, frame_start s _, rfl, rfl, rfl, rfl, rfl, rfl, rfl, rfl, rfl,
    ignoresMemory_start (.inr rfl) hb⟩, fun t u ht hu => ?_⟩
  obtain rfl := Host.Outcome.next.inj (h256.symm.trans ht)
  obtain rfl := Host.Outcome.next.inj (h224.symm.trans hu)
  exact frame_start_start s _ _

/-! ### NOP, and a START while the core is busy (R143, R151) -/

theorem exec_nop (ignored : BitVec 1) (s : State) : exec (.nop ignored) s = performSequencer s := rfl

/-- Settles O13: NOP and the operation of the phase are both the sequencer's choice. -/
theorem nopPerformsTheSequencerOperation : Obligations.NopPerformsTheSequencerOperation := by
  intro s
  obtain ⟨t, ht⟩ := performSequencer_next s
  exact ⟨t, fun b => (exec_nop b s).trans ht, (exec_decodeS s).trans ht,
    fun hr hs => ⟨operation_of_wait hr hs, step_sequencer hr (.inr hs) ht⟩⟩

/-- A sequencer operation neither reads nor writes the port `msg_len`. -/
theorem performSequencer_with_msgLen {s t : State} (l : BitVec 61) (h : performSequencer s = .next t) :
    performSequencer { s with msgLen := l } = .next { t with msgLen := l } := by
  have key : ∀ p : Phase, exec (decodeS p.bits) s = .next t →
      exec (decodeS p.bits) { s with msgLen := l } = .next { t with msgLen := l } := by
    intro p hp
    cases p with
    | idle | pad | sched | winit | round | fold | format | done =>
      obtain rfl := Host.Outcome.next.inj hp
      rfl
  exact (exec_decodeS { s with msgLen := l }).symm.trans (key s.PHASE ((exec_decodeS s).trans h))

/-- While the core is busy no register depends on the `msg_len` presented. -/
theorem sameReg_step_with_msgLen {s t u : State} {l : BitVec 61} (hr : rstBit s.hin = false) (hb : s.busy = true)
    (ht : step s = .next t) (hu : step { s with msgLen := l } = .next u) (r : Reg) : SameReg t u r := by
  obtain ⟨x, hx⟩ := performSequencer_next s
  obtain rfl := step_unique ht (step_sequencer hr (.inl hb) hx)
  obtain rfl := step_unique hu
    (step_sequencer (s := { s with msgLen := l }) hr (.inl hb) (performSequencer_with_msgLen l hx))
  cases r <;> simp [SameReg]

/-- A step of a computation keeps what START sampled, and does not return to IDLE. -/
theorem busy_step_keeps {s t : State} (h : step s = .next t) (hr : rstBit s.hin = false) (hb : s.busy = true) :
    t.LEN = s.LEN ∧ t.VARIANT = s.VARIANT ∧ t.PHASE ≠ .idle := by
  rcases step_cases h with ⟨hreset, -⟩ | ⟨v, hv, -⟩ | ⟨-, ⟨hidle, -⟩ | ⟨-, rfl⟩ | ⟨-, rfl⟩ | ⟨-, rfl⟩ | ⟨-, rfl⟩ |
    ⟨-, -, rfl⟩ | ⟨-, -, rfl⟩ | ⟨-, rfl⟩⟩
  · simp [hr] at hreset
  · obtain ⟨-, -, -, hidle⟩ := hv
    simp [hb] at hidle
  · simp [hb] at hidle
  · simp
  · simp
  · simp
  · refine ⟨by simp, by simp, ?_⟩
    rw [State.endStep_PHASE, State.setPHASE_PHASE]
    split <;> decide
  · simp
  · simp
  · simp

/-- Settles O12: both STARTs are then the sequencer operation of the phase, as NOP is. -/
theorem startWhileBusyIsIgnored : Obligations.StartWhileBusyIsIgnored := by
  intro s hb
  obtain ⟨h256, h224⟩ := exec_start_of_busy hb
  obtain ⟨x, hx⟩ := performSequencer_next s
  refine ⟨fun _ => ⟨h256, h224⟩, ⟨x, h256.trans hx, h224.trans hx, (exec_decodeS s).trans hx⟩,
    fun hr => (step_with_hin_of_busy hr hb rfl).symm, fun t hr ht => ?_⟩
  obtain ⟨hlen, hvariant, hphase⟩ := busy_step_keeps ht hr hb
  exact ⟨hlen, hvariant, hphase, fun l u hu => sameReg_step_with_msgLen hr hb ht hu⟩

/-! ### Waiting (R144, R145) -/

/-- IDLE and HOLD are performed exactly in their phase, with neither `rst` nor `start` (30_encoding.md R65). -/
theorem operation_eq_decodeS_iff_wait {p : Phase} (hp : phaseBusy p = false) (s : State) :
    s.operation = decodeS p.bits ↔ rstBit s.hin = false ∧ s.PHASE = p ∧ startBit s.hin = false := by
  constructor
  · intro hop
    rcases operation_cases s with hcommand | ⟨hr, hphase⟩
    · exact absurd (hcommand.symm.trans hop) (decodeH_ne_decodeS _ _)
    · have hbits : s.PHASE.bits = p.bits := decodeS_injective (hphase.symm.trans hop)
      obtain rfl : s.PHASE = p := Function.LeftInverse.injective Phase.ofBits_bits hbits
      refine ⟨hr, rfl, Bool.eq_false_iff.2 fun hs => ?_⟩
      have hstart := (operation_of_start hr hs hp).trans (decodeH_of_start hr hs).symm
      exact decodeH_ne_decodeS _ _ (hstart.symm.trans hop)
  · rintro ⟨hr, rfl, hs⟩
    exact operation_of_wait hr hs

/-- In IDLE and DONE every register keeps its value for as long as the host presents neither RESET nor START. -/
theorem exists_run_wait {k : Nat} {s : State} (hb : s.busy = false) (hr : rstBit s.hin = false)
    (hs : startBit s.hin = false) (hreset : s.noResetFor k) (hstart : s.noStartFor k) :
    ∃ t, run (k + 1) s = .next t ∧ ∀ r, SameReg s t r := by
  induction k generalizing s with
  | zero => exact ⟨s.endStep, run_succ (step_wait hb hr hs), sameReg_endStep s⟩
  | succ k ih =>
    have hstep := step_wait hb hr hs
    obtain ⟨hr', hreset'⟩ := noResetFor_step hreset hstep
    obtain ⟨hs', hstart'⟩ := noStartFor_step hstart hstep
    obtain ⟨t, hrun, hsame⟩ := ih (s.endStep_busy.trans hb) hr' hs' hreset' hstart'
    exact ⟨t, (run_succ hstep).trans hrun, fun r => sameReg_trans (sameReg_endStep s r) (hsame r)⟩

/-- IDLE is entered by RESET only. -/
theorem rst_or_idle_of_step_to_idle {s t : State} (h : step s = .next t) (ht : t.PHASE = .idle) :
    rstBit s.hin = true ∨ s.PHASE = .idle := by
  by_contra hnot
  obtain ⟨hr, hp⟩ : rstBit s.hin = false ∧ s.PHASE ≠ .idle := by simpa using hnot
  cases hb : s.busy with
  | true =>
    obtain ⟨-, -, hphase⟩ := busy_step_keeps h hr hb
    exact hphase ht
  | false =>
    cases hs : startBit s.hin with
    | true =>
      obtain rfl := step_unique h (step_start ⟨hr, hs, rfl, hb⟩)
      simp at ht
    | false =>
      obtain rfl := step_unique h (step_wait hb hr hs)
      exact hp (s.endStep_PHASE.symm.trans ht)

/-- Settles O14: IDLE waits with every register kept, and every other step that RESET does not take leads elsewhere. -/
theorem idleWaits : Obligations.IdleWaits := by
  refine ⟨fun _ => rfl, operation_eq_decodeS_iff_wait (p := .idle) rfl, fun k s hp hr hs hreset hstart => ?_,
    fun s t => rst_or_idle_of_step_to_idle⟩
  obtain ⟨t, hrun, hsame⟩ := exists_run_wait (busy_of_phase hp) hr hs hreset hstart
  have hphase : t.PHASE = .idle := (hsame .PHASE).trans hp
  exact ⟨t, hrun, hsame, busy_of_phase hphase, by simp [State.done_eq, hphase]⟩

/-- The output ports are functions of the registers (10_state.md R27). -/
theorem outputs_of_sameReg {s t : State} (h : ∀ r, SameReg s t r) :
    t.digestHex = s.digestHex ∧ t.digestLen = s.digestLen ∧ t.digestString = s.digestString := by
  have hphase : t.PHASE = s.PHASE := h .PHASE
  have hvariant : t.VARIANT = s.VARIANT := h .VARIANT
  have hhex : t.DIGEST_HEX = s.DIGEST_HEX := h .DIGEST_HEX
  simp [State.digestString, State.digestHex, State.digestLen, State.done_eq, hphase, hvariant, hhex]

/-- Settles O15: HOLD waits as IDLE does, and with the registers the ports stay. -/
theorem holdKeepsTheDigest : Obligations.HoldKeepsTheDigest := by
  refine ⟨fun _ => rfl, operation_eq_decodeS_iff_wait (p := .done) rfl, fun k s hp hr hs hreset hstart => ?stable,
    fun s t hp ht hleft => ?left⟩
  case stable =>
    obtain ⟨t, hrun, hsame⟩ := exists_run_wait (busy_of_phase hp) hr hs hreset hstart
    have hphase : t.PHASE = .done := (hsame .PHASE).trans hp
    exact ⟨t, hrun, hsame, busy_of_phase hphase, by simp [State.done_eq, hphase], outputs_of_sameReg hsame⟩
  case left =>
    by_contra hnot
    obtain ⟨hr, hs⟩ : rstBit s.hin = false ∧ startBit s.hin = false := by simpa using hnot
    obtain rfl := step_unique ht (step_wait (busy_of_phase hp) hr hs)
    exact hleft (s.endStep_PHASE.trans hp)

/-! ### FOLD (R146) -/

/-- The additive fold word by word, in the ring of words. -/
theorem foldHash_toList (h : Vector Word 8) (r : Work) :
    (foldHash h r).toList = [h[0] + r.a, h[1] + r.b, h[2] + r.c, h[3] + r.d,
      h[4] + r.e, h[5] + r.f, h[6] + r.g, h[7] + r.h] := by
  simp [foldHash, tabulate, List.range_succ, add32_eq_sum, Vector.getD, Work.toVector]

theorem State.setH_setN_self (s : State) (h : Vector Word 8) : (s.setH h).setN s.N = s.setH h := rfl

theorem exec_fold_last {s : State} (hl : s.N.toNat + 1 = NBLK s.LEN.toNat) :
    exec .fold s = .next ((s.setH (foldHash s.H s.WK)).setPHASE .format) := by
  simp [exec, execFold, State.lastBlock, hl, State.setH_setN_self]

theorem exec_fold_next {s : State} (hl : s.N.toNat + 1 ≠ NBLK s.LEN.toNat) :
    exec .fold s =
      .next (((s.setH (foldHash s.H s.WK)).setN (BitVec.ofNat 56 (s.N.toNat + 1))).setPHASE .pad) := by
  simp [exec, execFold, State.lastBlock, hl]

/-- FOLD's test in the padder's terms (41_padder.md R101, R106). -/
theorem lastBlock_iff (len : BitVec 61) (n : BitVec 56) :
    (n.toNat + 1 = NBLK len.toNat ↔ 64 * (n.toNat + 1) = PLEN len.toNat) ∧
    (n.toNat + 1 = NBLK len.toNat ↔ padderLast len n = true) ∧
    (n.toNat < NBLK len.toNat → ∀ m, (n.toNat + 1 = NBLK len.toNat ↔ (sha256Padder len n m).last = true)) := by
  have hbytes : n.toNat + 1 = NBLK len.toNat ↔ 64 * (n.toNat + 1) = PLEN len.toNat := by
    rw [PLEN_eq_mul_NBLK, Nat.mul_right_inj (by decide)]
  refine ⟨hbytes, hbytes.trans (by simp [padderLast]), fun hn m => ?_⟩
  obtain ⟨-, -, hlast⟩ := padderOutputs len n m hn
  exact hlast.symm

/-- Settles O27: the fold is the same in both branches, which differ in `N` and `PHASE`. -/
theorem foldAddsAndAdvances : Obligations.FoldAddsAndAdvances := by
  refine ⟨operation_eq_decodeS_iff (p := .fold) rfl, fun s => ?_⟩
  obtain ⟨hbytes, hlast, hpadder⟩ := lastBlock_iff s.LEN s.N
  have hignores : IgnoresMemory .fold s := ignoresMemory_sequencer s (by simp)
  by_cases hl : s.N.toNat + 1 = NBLK s.LEN.toNat
  · exact ⟨_, exec_fold_last hl, foldHash_toList s.H s.WK,
      fun _ => ⟨frame_trans (frame_setH s _) (frame_setPHASE _ _), rfl⟩, fun hnot => absurd hl hnot, rfl, hbytes, hlast,
      hpadder, rfl, hignores⟩
  · exact ⟨_, exec_fold_next hl, foldHash_toList s.H s.WK, fun h => absurd h hl,
      fun _ => ⟨frame_trans (frame_trans (frame_setH s _) (frame_setN _ _)) (frame_setPHASE _ _), rfl,
        fun hfit => (BitVec.toNat_ofNat ..).trans (Nat.mod_eq_of_lt hfit)⟩,
      rfl, hbytes, hlast, hpadder, rfl, hignores⟩

end Sys2Proof.Machine
end

section
/-! The core sequencer's runs (45_core_sequencer.md R140, R148 to R152): the next-position table, the length and the
operations of a computation, and its digest. -/

namespace Sys2Proof.Machine

/-! ### The next-position table (R148) -/

/-- Settles O41: each row is one kind of step, and the invariant bounds what FOLD finds. -/
theorem nextPositionTable : Obligations.NextPositionTable := by
  intro s t h
  refine ⟨fun hr => ?reset, fun hr => ⟨fun hp hs => ?start, fun hp hs => ?idle, fun hp hs => ?done, fun hp => ?pad,
    fun hp => ?sched, fun hp => ?winit, fun hp hJ => ?again, fun hp hJ => ?last, fun hp hl => ?next, fun hp hl => ?final,
    fun hp => ?format⟩, fun hinv hp => ?inv⟩
  case reset =>
    obtain rfl := step_unique h (step_reset hr)
    simp
  case start =>
    obtain rfl := step_unique h (step_start ⟨hr, hs, rfl, (busy_eq_false_iff s).2 hp⟩)
    simp
  case idle | done =>
    obtain rfl := step_unique h (step_wait (busy_of_phase hp) hr hs)
    simp [hp]
  case pad =>
    obtain rfl := step_unique h (step_pad hr hp)
    simp
  case sched =>
    obtain rfl := step_unique h (step_sched hr hp)
    simp
  case winit =>
    obtain rfl := step_unique h (step_winit hr hp)
    simp
  case again =>
    obtain rfl := step_unique h (step_round hr hp)
    have hnot : s.J ≠ 63#6 := fun hJ' => by simp [hJ'] at hJ
    have hfit : s.J.toNat + 1 < 64 := by omega
    simp [hnot, Nat.mod_eq_of_lt hfit]
  case last =>
    obtain rfl := step_unique h (step_round hr hp)
    have hJ' : s.J = 63#6 := BitVec.eq_of_toNat_eq hJ
    simp [hJ']
  case next =>
    obtain rfl := step_unique h (step_fold_next hr hp hl.ne)
    have hfit : s.N.toNat + 1 < 2 ^ 56 := by
      have hlimit := NBLK_le s.LEN
      omega
    exact ⟨by simp, by simpa using hfit, by simp⟩
  case final =>
    obtain rfl := step_unique h (step_fold_last hr hp hl)
    simp
  case format =>
    obtain rfl := step_unique h (step_format hr hp)
    simp
  case inv =>
    have hb : s.busy = true := busy_of_phase hp
    exact ⟨hinv.round hb (by simp [hp]), hinv.block hb⟩

/-! ### The length of a computation (R150) -/

/-- The host's undertaking about RESET covers what is left of it after some steps. -/
theorem noResetFor_run {a b : Nat} {s t : State} (h : s.noResetFor (a + b + 1)) (hrun : run (a + 1) s = .next t) :
    t.Quiet b := by
  induction a generalizing s with
  | zero =>
    obtain ⟨u, hu⟩ := step_next s
    rw [run_succ hu] at hrun
    obtain rfl := Host.Outcome.next.inj hrun
    simpa using noResetFor_step h hu
  | succ a ih =>
    obtain ⟨u, hu⟩ := step_next s
    rw [run_succ hu] at hrun
    rw [show a + 1 + b + 1 = a + b + 1 + 1 by omega] at h
    exact ih (noResetFor_step h hu).2 hrun

/-- After the accepting step and `k` more, the computation has `k` of its steps behind it and has not been given up. -/
theorem exists_run_stepsLeft {k : Nat} {s : State} {v : Variant} (hv : s.acceptsStart v)
    (hk : k ≤ 68 * NBLK s.msgLen.toNat + 1) (hq : s.noResetFor k) :
    ∃ t, run (k + 1) s = .next t ∧ t.stepsLeft + k = 68 * NBLK s.msgLen.toNat + 1 ∧ t.N.toNat < NBLK t.LEN.toNat ∧
      t.PHASE ≠ .idle := by
  induction k with
  | zero =>
    exact ⟨_, run_succ (step_start hv), by rw [State.endStep_stepsLeft, s.start_stepsLeft],
      by simpa using NBLK_pos s.msgLen.toNat, by simp⟩
  | succ k ih =>
    have hrst : rstBit s.hin = false := hv.1
    obtain ⟨-, hq'⟩ : s.Quiet k := State.Quiet.mono ⟨hrst, hq⟩ (Nat.le_succ k)
    obtain ⟨t, ht, hleft, hN, -⟩ := ih (by omega) hq'
    obtain ⟨hr, -⟩ := noResetFor_run (b := 0) hq ht
    obtain ⟨u, hu, hadv⟩ := exists_advance hN (by omega) hr
    obtain ⟨-, -, hphase⟩ := busy_step_keeps hu hr (t.busy_iff_stepsLeft_pos.2 (by omega))
    have hone := hadv.stepsLeft
    exact ⟨u, (run_add ht).trans (run_succ hu), by omega, hadv.block, hphase⟩

/-- Settles O43: the core is busy exactly while steps of the computation are left, and with none left it is in DONE. -/
theorem computationTakesItsSteps : Obligations.ComputationTakesItsSteps := by
  refine ⟨fun L => ⟨fun hL => ?oneBlock, fun hlow hhigh => ?twoBlocks⟩,
    fun s v hv hq => ⟨?done, fun k hlow hhigh => ?busy⟩⟩
  case oneBlock | twoBlocks =>
    unfold NBLK
    omega
  case done =>
    obtain ⟨t, ht, hleft, -, hphase⟩ := exists_run_stepsLeft hv le_rfl hq
    have hb : t.busy = false := Bool.eq_false_iff.2 fun hb => by
      have := t.busy_iff_stepsLeft_pos.1 hb
      omega
    have hdone : t.PHASE = .done := (phase_of_not_busy hb).resolve_left hphase
    exact ⟨t, ht, hdone, by simp [State.done_eq, hdone]⟩
  case busy =>
    obtain ⟨j, rfl⟩ := Nat.exists_eq_add_of_le' hlow
    obtain ⟨-, hq'⟩ : s.Quiet j := State.Quiet.mono ⟨hv.1, hq⟩ (by omega)
    obtain ⟨t, ht, hleft, -⟩ := exists_run_stepsLeft hv (by omega) hq'
    have hb : t.busy = true := t.busy_iff_stepsLeft_pos.2 (by omega)
    obtain ⟨-, -, hexclusive, -⟩ := t.flags_iff_phase
    exact ⟨t, ht, hb, Bool.eq_false_iff.2 fun hd => hexclusive ⟨hb, hd⟩⟩

/-! ### One block (R140) -/

/-- `t` is at the FOLD of the block that `s` is about to PAD: the working registers hold the compression of that block. -/
structure CompressesBlock (s t : State) : Prop where
  reaches : run 67 s = .next t
  phase : t.PHASE = .fold
  round : t.J = 0#6
  block : t.N = s.N
  length : t.LEN = s.LEN
  variant : t.VARIANT = s.VARIANT
  hash : t.H = s.H
  work : t.WK = compress (Work.ofVector s.H) (expand (sha256Padder s.LEN s.N s.padderBytes).blk)
  trace : operationTrace 67 s = (.pad, s.N.toNat, s.J.toNat) :: (.sched, s.N.toNat, s.J.toNat) ::
    (.winit, s.N.toNat, s.J.toNat) :: (List.range 64).map fun j => (.round, s.N.toNat, j)

/-- PAD, SCHED, and from WINIT on the 64 rounds of R123. -/
theorem exists_compressesBlock {s : State} (hp : s.PHASE = .pad) (hq : s.Quiet 66) : ∃ t, CompressesBlock s t := by
  -- variables for the block and its schedule, or Lean evaluates the recurrence
  generalize hblk : (sha256Padder s.LEN s.N s.padderBytes).blk = blk
  generalize hw : expand blk = w
  have hpad : step s = .next ((s.setBLK blk).setPHASE .sched).endStep := hblk ▸ step_pad hq.1 hp
  generalize hu : ((s.setBLK blk).setPHASE .sched).endStep = u at hpad
  have hqu : u.Quiet 65 := noResetFor_step hq.2 hpad
  have hup : u.PHASE = .sched := by simp [← hu]
  have hsched : step u = .next ((u.setW w).setPHASE .winit).endStep := by
    rw [step_sched hqu.1 hup, show u.BLK = blk by simp [← hu], hw]
  obtain ⟨hr, hreset⟩ := noResetFor_step hqu.2 hsched
  obtain ⟨t, hrun, hphase, hround, hwork, hhash, -, -, hblock, hvariant, hlength, -, htrace⟩ :=
    sixtyFourRoundsCompress _ (by simp) hr hreset
  refine ⟨t, (run_succ hpad).trans ((run_succ hsched).trans hrun), hphase, hround, ?_, ?_, ?_, ?_, ?_, ?_⟩
  · simpa [← hu] using hblock
  · simpa [← hu] using hlength
  · simpa [← hu] using hvariant
  · simpa [← hu] using hhash
  · simpa [← hu, hblk, hw] using hwork
  · rw [operationTrace_busy rfl hq.1 hp hpad, operationTrace_busy rfl hqu.1 hup hsched, htrace]
    simp [← hu, decodeS, Phase.bits, Phase.ofBits]

/-- `H` is the Hash State after the blocks of `pad(m)` before block `N` (45_core_sequencer.md R153). -/
def State.HashesBlocksBefore (s : State) (m : List Byte) : Prop := s.H = hashBlocks s.VARIANT (padMessage m) s.N.toNat

/-- With memory holding `m`, the block PAD writes is block `N` of `pad(m)` (41_padder.md R105). -/
theorem padder_blk_eq_blockAt {s : State} {m : List Byte} (hlen : m.length = s.LEN.toNat) (hm : s.holdsMessage m)
    (hN : s.N.toNat < NBLK s.LEN.toNat) :
    (sha256Padder s.LEN s.N s.padderBytes).blk = blockAt (padMessage m) s.N.toNat := by
  obtain ⟨t, ht, hbytes⟩ := padBlockIsTheMessagePadded s m hlen hm hN
  obtain rfl := Host.Outcome.next.inj ht
  refine Vector.ext fun i hi => ?_
  have hbyte : (padMessage m)[64 * s.N.toNat + i]? = some (sha256Padder s.LEN s.N s.padderBytes).blk[i] := hbytes i hi
  rw [blockAt, tabulate_getElem, List.getD_eq_getElem?_getD, hbyte, Option.getD_some]

/-- FOLD completes `hashBlock` on a block that has been compressed. -/
theorem CompressesBlock.foldHash_eq {s t : State} {m : List Byte} (h : CompressesBlock s t) (hlen : m.length = s.LEN.toNat)
    (hm : s.holdsMessage m) (hN : s.N.toNat < NBLK s.LEN.toNat) (hhash : s.HashesBlocksBefore m) :
    foldHash t.H t.WK = hashBlocks s.VARIANT (padMessage m) (s.N.toNat + 1) := by
  rw [h.work, h.hash, padder_blk_eq_blockAt hlen hm hN, hhash]
  rfl

theorem CompressesBlock.trace_with_fold {s t u : State} (h : CompressesBlock s t) (hJ : s.J = 0#6)
    (hr : rstBit t.hin = false) (hu : step t = .next u) : operationTrace 68 s = blockOperations s.N.toNat := by
  rw [show 68 = 67 + 1 from rfl, operationTrace_add h.reaches, h.trace, operationTrace_busy rfl hr h.phase hu, h.block,
    h.round, hJ]
  rfl

/-- `t` is at the PAD of the block after the one that `s` is about to PAD. -/
structure ReachesNextBlock (s t : State) : Prop where
  reaches : run 68 s = .next t
  phase : t.PHASE = .pad
  round : t.J = 0#6
  block : t.N.toNat = s.N.toNat + 1
  length : t.LEN = s.LEN
  variant : t.VARIANT = s.VARIANT
  hash : ∀ m : List Byte, m.length = s.LEN.toNat → s.holdsMessage m → s.HashesBlocksBefore m → t.HashesBlocksBefore m
  trace : operationTrace 68 s = blockOperations s.N.toNat

theorem exists_reachesNextBlock {s : State} (hp : s.PHASE = .pad) (hJ : s.J = 0#6)
    (hl : s.N.toNat + 1 < NBLK s.LEN.toNat) (hq : s.Quiet 67) : ∃ t, ReachesNextBlock s t := by
  obtain ⟨u, hu⟩ := exists_compressesBlock hp (hq.mono (by decide))
  obtain ⟨hr, -⟩ : u.Quiet 0 := noResetFor_run (a := 66) hq.2 hu.reaches
  have hfold := step_fold_next hr hu.phase (by rw [hu.block, hu.length]; exact hl.ne)
  have hnext : (BitVec.ofNat 56 (u.N.toNat + 1)).toNat = s.N.toNat + 1 := by
    have hlimit := NBLK_le s.LEN
    rw [hu.block, BitVec.toNat_ofNat, Nat.mod_eq_of_lt (by omega)]
  generalize BitVec.ofNat 56 (u.N.toNat + 1) = n at hfold hnext
  refine ⟨_, (run_add (b := 1) hu.reaches).trans (run_succ hfold), by simp, by simp [hu.round], by simp [hnext],
    by simp [hu.length], by simp [hu.variant], fun m hlen hm hhash => ?_, hu.trace_with_fold hJ hr hfold⟩
  simpa [State.HashesBlocksBefore, hnext, hu.variant] using hu.foldHash_eq hlen hm (by omega) hhash

/-! ### All blocks (R140, R149) -/

/-- `t` is at the end of a computation in which `s` is about to PAD the first of the last `k` blocks. -/
structure FinishesComputation (k : Nat) (s t : State) : Prop where
  reaches : run (68 * k + 1) s = .next t
  phase : t.PHASE = .done
  variant : t.VARIANT = s.VARIANT
  digest : t.DIGEST_HEX = tabulate 64 (digestChar t.H t.VARIANT)
  hash : ∀ m : List Byte, m.length = s.LEN.toNat → s.holdsMessageFor (68 * k) m → s.HashesBlocksBefore m →
    t.H = hashBlocks s.VARIANT (padMessage m) (NBLK s.LEN.toNat)
  trace : operationTrace (68 * k + 1) s =
    (List.range' s.N.toNat k).flatMap blockOperations ++ [(.format, NBLK s.LEN.toNat - 1, 0)]

/-- The last block: its FOLD is followed by FORMAT. -/
theorem exists_finishesComputation_last {s : State} (hp : s.PHASE = .pad) (hJ : s.J = 0#6)
    (hl : s.N.toNat + 1 = NBLK s.LEN.toNat) (hq : s.Quiet 68) : ∃ t, FinishesComputation 1 s t := by
  obtain ⟨u, hu⟩ := exists_compressesBlock hp (hq.mono (by decide))
  have hqu : u.Quiet 1 := noResetFor_run (a := 66) hq.2 hu.reaches
  have hfold := step_fold_last hqu.1 hu.phase (by rw [hu.block, hu.length, hl])
  generalize hx : ((u.setH (foldHash u.H u.WK)).setPHASE .format).endStep = x at hfold
  have hxp : x.PHASE = .format := by simp [← hx]
  obtain ⟨hr, -⟩ := noResetFor_step hqu.2 hfold
  have hformat := step_format hr hxp
  have hrun : run 68 s = .next x := (run_add (b := 1) hu.reaches).trans (run_succ hfold)
  refine ⟨_, (run_add (b := 1) hrun).trans (run_succ hformat), by simp, by simp [← hx, hu.variant],
    by simp [sha256DigestFormatter], fun m hlen hm hhash => ?_, ?_⟩
  · rw [← hl, ← hu.foldHash_eq hlen hm.now (by omega) hhash]
    simp [← hx]
  · rw [operationTrace_add (b := 1) hrun, hu.trace_with_fold hJ hqu.1 hfold, operationTrace_busy rfl hr hxp hformat, ← hl]
    simp [← hx, hu.block, hu.round, operationTrace, show decodeS Phase.format.bits = .format from rfl]

/-- One more block before those of a computation that finishes. -/
theorem ReachesNextBlock.finishesComputation {k : Nat} {s u t : State} (hu : ReachesNextBlock s u)
    (ht : FinishesComputation k u t) : FinishesComputation (k + 1) s t := by
  have hsteps : 68 * (k + 1) = 68 + 68 * k := by omega
  refine ⟨?reaches, ht.phase, ht.variant.trans hu.variant, ht.digest, fun m hlen hm hhash => ?hash, ?trace⟩
  case reaches => rw [hsteps, Nat.add_assoc, run_add hu.reaches, ht.reaches]
  case hash =>
    rw [hsteps] at hm
    have hhash' : u.HashesBlocksBefore m := hu.hash m hlen hm.now hhash
    rw [ht.hash m (hu.length ▸ hlen) (holdsMessageFor_run hm hu.reaches) hhash', hu.variant, hu.length]
  case trace =>
    rw [hsteps, Nat.add_assoc, operationTrace_add hu.reaches, hu.trace, ht.trace, hu.block, hu.length]
    simp [List.range'_succ]

/-- From PAD on: the current block, `k` more, and FORMAT. -/
theorem exists_finishesComputation {k : Nat} {s : State} (hp : s.PHASE = .pad) (hJ : s.J = 0#6)
    (hk : s.N.toNat + 1 + k = NBLK s.LEN.toNat) (hq : s.Quiet (68 * (k + 1))) :
    ∃ t, FinishesComputation (k + 1) s t := by
  induction k generalizing s with
  | zero => exact exists_finishesComputation_last hp hJ hk hq
  | succ k ih =>
    obtain ⟨u, hu⟩ := exists_reachesNextBlock hp hJ (by omega) (hq.mono (by omega))
    have hqu : u.Quiet (68 * (k + 1)) := noResetFor_run (a := 67) (hq.mono (by omega)).2 hu.reaches
    obtain ⟨t, ht⟩ := ih hu.phase hu.round (by rw [hu.block, hu.length]; omega) hqu
    exact ⟨t, hu.finishesComputation ht⟩

/-- A computation from the step after an accepted START. -/
theorem exists_finishesComputation_of_start {s : State} {v : Variant} (hv : s.acceptsStart v)
    (hq : s.noResetFor (68 * NBLK s.msgLen.toNat + 1)) :
    ∃ t, FinishesComputation (NBLK s.msgLen.toNat) (s.start v).endStep t := by
  obtain ⟨k, hk⟩ := Nat.exists_eq_add_of_le' (NBLK_pos s.msgLen.toNat)
  rw [hk] at hq ⊢
  exact exists_finishesComputation (by simp) (by simp) (by simp [hk, Nat.add_comm]) (noResetFor_step hq (step_start hv))

/-- Settles O42: a computation has all its blocks before it when START has written `N = 0`. -/
theorem computationOperationSequence : Obligations.ComputationOperationSequence := by
  intro s v hv hq
  obtain ⟨t, ht⟩ := exists_finishesComputation_of_start hv hq
  exact ⟨_, step_start hv, by simpa [List.range_eq_range'] using ht.trace⟩

/-! ### The digest (R152) -/

/-- In DONE the host reads `format(H, NW(VARIANT))` when `DIGEST_HEX` holds the rendering of `H`. -/
theorem digestString_eq_formatString {s : State} (hp : s.PHASE = .done)
    (hdigest : s.DIGEST_HEX = tabulate 64 (digestChar s.H s.VARIANT)) :
    s.digestString = some (formatString s.H s.VARIANT) := by
  have hdone : s.done = true := by simp [State.done_eq, hp]
  have hlen : 8 * NW s.VARIANT ≤ 64 := by have := NW_le s.VARIANT; omega
  rw [State.digestString, if_pos hdone, State.digestHex, hdigest, State.digestLen, digestChars_toNat,
    take_tabulate_toList hlen, formatString]

/-- Settles O51: the computation ends with the Hash State of all blocks of `pad(m)`, rendered, and HOLD keeps it. -/
theorem endToEndDigestIsTheReference : Obligations.EndToEndDigestIsTheReference := by
  intro s v m hv hlen hq hm
  rw [hlen] at hq hm ⊢
  have hstart := step_start hv
  obtain ⟨t, ht⟩ := exists_finishesComputation_of_start hv hq
  have hvariant : t.VARIANT = v := by simpa using ht.variant
  have hfirst : (s.start v).endStep.HashesBlocksBefore m := by simp [State.HashesBlocksBefore, hashBlocks]
  have hhash : t.H = hashBlocks v (padMessage m) (NBLK m.length) := by
    simpa [hlen] using ht.hash m (by simpa using hlen) (holdsMessageFor_step hm hstart) hfirst
  have hdone : t.done = true := by simp [State.done_eq, ht.phase]
  have hstring : t.digestString = some (SHA v m) := by
    rw [digestString_eq_formatString ht.phase ht.digest, hvariant, hhash]
    rfl
  refine ⟨t, (run_succ hstart).trans ht.reaches, hdone, by rw [State.digestLen, hvariant, digestChars_toNat], hstring,
    fun k hr hs hreset hquiet => ?_⟩
  obtain ⟨-, -, hstable, -⟩ := holdKeepsTheDigest
  obtain ⟨u, hu, -, -, hudone, -, hulen, hustring⟩ := hstable k t ht.phase hr hs hreset hquiet
  exact ⟨u, hu, hudone, hulen, hustring.trans hstring⟩

end Sys2Proof.Machine
end

section
/-! RESET (70_reset_and_hazards.md R190) and the hazard of a message that changes while it is hashed (R194): whatever PAD has
read, the computation reaches DONE with the rendering of some Hash State. -/

namespace Sys2Proof.Machine

/-! ### RESET (R190) -/

theorem rstBit_resetWord (lo : BitVec 2) : rstBit (0b1#1 ++ lo) = true := by
  revert lo
  decide

/-- RESET is performed exactly when `rst = 1`, with priority over START and over the operation of every phase. -/
theorem exists_operation_eq_reset_iff (s : State) : (∃ ignored, s.operation = .reset ignored) ↔ rstBit s.hin = true := by
  refine ⟨fun ⟨ignored, hop⟩ => ?_, fun hr => ⟨_, operation_of_rst hr⟩⟩
  have hreset : s.operation = decodeH (0b1#1 ++ ignored) := hop.trans (decodeH_reset ignored).symm
  rcases operation_cases s with hcommand | ⟨-, hphase⟩
  · rw [decodeH_injective (hcommand.symm.trans hreset)]
    exact rstBit_resetWord ignored
  · exact absurd (hreset.symm.trans hphase) (decodeH_ne_decodeS _ _)

theorem flags_of_idle {s : State} (h : s.PHASE = .idle) : s.busy = false ∧ s.done = false := by
  obtain ⟨-, -, -, hidle⟩ := s.flags_iff_phase
  exact hidle.2 h

/-- Settles O8: RESET leaves IDLE, which decides the flags and the reads, and draws the other registers, which moves neither
memory nor ports. -/
theorem resetReturnsToIdle : Obligations.ResetReturnsToIdle := by
  refine ⟨fun ignored s => ?operation, fun s hr => ?step, exists_operation_eq_reset_iff⟩
  case operation =>
    have hidle : (s.drawRegisters.setPHASE .idle).PHASE = .idle := s.drawRegisters.setPHASE_PHASE .idle
    obtain ⟨hbusy, hdone⟩ := flags_of_idle hidle
    exact ⟨_, rfl, hidle, hbusy, hdone, memReads_of_phase_ne_pad (by simp), fun _ => by simp, by simp [SamePorts],
      memReadsOf_eq_nil s (by simp), ignoresMemory_reset ignored s, fun _ => rfl⟩
  case step =>
    have hidle : (s.drawRegisters.setPHASE .idle).endStep.PHASE = .idle := by simp
    have hreads : s.memReads = [] := by rw [State.memReads, operation_of_rst hr, memReadsOf_eq_nil s (by simp)]
    exact ⟨_, step_reset hr, hreads, hidle, flags_of_idle hidle⟩

/-! ### A message that is not held stable (R194) -/

/-- Settles O44: FORMAT renders whatever Hash State the computation has come to, so the string is that of a digest. -/
theorem everyComputationShowsAWellFormedDigest : Obligations.EveryComputationShowsAWellFormedDigest := by
  intro s v hv hq
  obtain ⟨t, ht⟩ := exists_finishesComputation_of_start hv hq
  have hvariant : t.VARIANT = v := by simpa using ht.variant
  refine ⟨t, formatString t.H v, (run_succ (step_start hv)).trans ht.reaches, ?shown, ?long, ?short,
    fun c hc => isLowerHex_of_mem_formatString hc⟩
  case shown => rw [digestString_eq_formatString ht.phase ht.digest, hvariant]
  case long | short =>
    rintro rfl
    exact length_formatString t.H _

end Sys2Proof.Machine
end
